-- ==== Sys2Proof/Word.lean ====
section
/-! DEFINITION. The word types of the Turtle: what R5, R20, R23, R27 and R41 give a width. -/

namespace Sys2Proof

/-- A 16-bit value: a general purpose register, a memory cell, an instruction word (R20, R41, R60). -/
abbrev Word := BitVec 16

/-- A 10-bit memory address; the width of `pc` and `sp` (R23, R27, R40). -/
abbrev Addr := BitVec 10

/-- An 8-bit immediate or stack offset (R66, R68). -/
abbrev Byte := BitVec 8

/-- A 3-bit register field; value `n` selects `rn` (R70, decision D2). -/
abbrev Reg := BitVec 3

/-- The 5-bit offset of the register-offset loads and stores (R67). -/
abbrev Off5 := BitVec 5

/-- The 5-bit opcode `w[15:11]` (R62). -/
abbrev Opcode := BitVec 5

end Sys2Proof
end

