-- ==== Sys2Proof/Syntax.lean ====
section
/-! DEFINITION. The instructions: one constructor per row of `spec/opcode_table.json`, in the order of R73. -/

namespace Sys2Proof

/-- The 32 instructions of the Turtle ISA (R73). `a` is the register of `w[10:8]`, `b` that of `w[7:5]` (R70); offsets and
addresses are the fields of R71 as bit vectors, so that every term is an instruction the encoding can spell. -/
inductive Instr where
  /-- `nop` (R90). -/
  | nop
  /-- `mv rA, rB` (R120). -/
  | mv (a b : Reg)
  /-- `mvh rA, imm8` (R140). -/
  | mvh (a : Reg) (imm : Byte)
  /-- `mvl rA, imm8` (R141). -/
  | mvl (a : Reg) (imm : Byte)
  /-- `ld rA, [sp+off8]`, table row `ld_stack_offset` (R153). -/
  | ldStack (a : Reg) (off : Byte)
  /-- `st rA, [sp+off8]`, table row `st_stack_offset` (R154). -/
  | stStack (a : Reg) (off : Byte)
  /-- `in rA` (R102). -/
  | inPort (a : Reg)
  /-- `out rA` (R103). -/
  | outPort (a : Reg)
  /-- `cmp rA, rB` (R123). -/
  | cmp (a b : Reg)
  /-- `jmp addr` (R171). -/
  | jmp (addr : Addr)
  /-- `jc addr` (R172). -/
  | jc (addr : Addr)
  /-- `jnc addr` (R173). -/
  | jnc (addr : Addr)
  /-- `jz addr` (R174). -/
  | jz (addr : Addr)
  /-- `jnz addr` (R175). -/
  | jnz (addr : Addr)
  /-- `call addr` (R170). -/
  | call (addr : Addr)
  /-- `ret` (R91); its opcode is inferred (R74). -/
  | ret
  /-- `push rA` (R100). -/
  | push (a : Reg)
  /-- `pop rA` (R101). -/
  | pop (a : Reg)
  /-- `add rA, rB` (R121). -/
  | add (a b : Reg)
  /-- `sub rA, rB` (R122). -/
  | sub (a b : Reg)
  /-- `and rA, rB` (R124). -/
  | and (a b : Reg)
  /-- `or rA, rB` (R125). -/
  | or (a b : Reg)
  /-- `not rA` (R107). -/
  | not (a : Reg)
  /-- `xor rA, rB` (R126). -/
  | xor (a b : Reg)
  /-- `shr rA, rB` (R127). -/
  | shr (a b : Reg)
  /-- `shl rA, rB` (R128). -/
  | shl (a b : Reg)
  /-- `clr rA` (R104). -/
  | clr (a : Reg)
  /-- `lsp addr`, table row `lsp_imm` (R176). -/
  | lspImm (addr : Addr)
  /-- `lsp rA`, table row `lsp_reg` (R105). -/
  | lspReg (a : Reg)
  /-- `rsp rA` (R106). -/
  | rsp (a : Reg)
  /-- `ld rA, [rB+off5]`, table row `ld_reg_offset` (R151). -/
  | ldReg (a b : Reg) (off : Off5)
  /-- `st rA, [rB+off5]`, table row `st_reg_offset` (R152). -/
  | stReg (a b : Reg) (off : Off5)
  deriving DecidableEq, Repr

end Sys2Proof
end

