-- ==== Sys2Proof/WellFormed.lean ====
section
/-! DEFINITION. The well-formedness checks: which numbers an operand of the assembly language may hold (R71, R79, R80).

A term of `Instr` has no ill-formed value: its fields are bit vectors of the widths of R5, and R75 says that every value of
every field is legal. What can be ill-formed is a NUMBER written in assembly, and "an assembler conforming to this spec
rejects it" (R80, D25). The assembler (`Machine/Assembler.lean`) asks these checks, and only these, before it makes an
instruction. -/

namespace Sys2Proof

/-- A register number is 0 to 7 (R79). -/
def fitsReg (n : Nat) : Bool := n < 8

/-- An `imm8` is 0x00 to 0xFF (R71). -/
def fitsImm8 (n : Int) : Bool := 0 ≤ n && n ≤ 255

/-- An `off5` is -16 to +15 (R71). -/
def fitsOff5 (n : Int) : Bool := -16 ≤ n && n ≤ 15

/-- An `off8` is -128 to +127 (R71). -/
def fitsOff8 (n : Int) : Bool := -128 ≤ n && n ≤ 127

/-- An `addr10` is 0x000 to 0x3FF (R71). -/
def fitsAddr (n : Int) : Bool := 0 ≤ n && n ≤ 1023

end Sys2Proof
end

