-- ==== Sys2Proof/Decode.lean ====
section
/-! DEFINITION. Decoding and encoding (R60 to R77). Decoding is total on 16-bit words (R75), so it rejects nothing. -/

namespace Sys2Proof

/-- The opcode field `w[15:11]` (R62). -/
def opcodeOf (w : Word) : Opcode := w.extractLsb' 11 5

/-- Reg A, `w[10:8]` (R70). -/
def regA (w : Word) : Reg := w.extractLsb' 8 3

/-- Reg B, `w[7:5]` (R70). -/
def regB (w : Word) : Reg := w.extractLsb' 5 3

/-- The byte `w[7:0]`: `imm8` of format RI, `off8` of format RSO (R66, R68). -/
def lowByteOf (w : Word) : Byte := w.extractLsb' 0 8

/-- The offset `w[4:0]` of format RRO (R67). -/
def off5Of (w : Word) : Off5 := w.extractLsb' 0 5

/-- The address `w[10:1]` of format A (R69). -/
def addrOf (w : Word) : Addr := w.extractLsb' 1 10

/-- The decode algorithm of R77 over the opcode map of R73. A 5-bit opcode below 31 has its own line, and the last line is
opcode 31. -/
def decode (w : Word) : Instr :=
  match (opcodeOf w).toNat with
  | 0x00 => .nop
  | 0x01 => .mv (regA w) (regB w)
  | 0x02 => .mvh (regA w) (lowByteOf w)
  | 0x03 => .mvl (regA w) (lowByteOf w)
  | 0x04 => .ldStack (regA w) (lowByteOf w)
  | 0x05 => .stStack (regA w) (lowByteOf w)
  | 0x06 => .inPort (regA w)
  | 0x07 => .outPort (regA w)
  | 0x08 => .cmp (regA w) (regB w)
  | 0x09 => .jmp (addrOf w)
  | 0x0A => .jc (addrOf w)
  | 0x0B => .jnc (addrOf w)
  | 0x0C => .jz (addrOf w)
  | 0x0D => .jnz (addrOf w)
  | 0x0E => .call (addrOf w)
  | 0x0F => .ret
  | 0x10 => .push (regA w)
  | 0x11 => .pop (regA w)
  | 0x12 => .add (regA w) (regB w)
  | 0x13 => .sub (regA w) (regB w)
  | 0x14 => .and (regA w) (regB w)
  | 0x15 => .or (regA w) (regB w)
  | 0x16 => .not (regA w)
  | 0x17 => .xor (regA w) (regB w)
  | 0x18 => .shr (regA w) (regB w)
  | 0x19 => .shl (regA w) (regB w)
  | 0x1A => .clr (regA w)
  | 0x1B => .lspImm (addrOf w)
  | 0x1C => .lspReg (regA w)
  | 0x1D => .rsp (regA w)
  | 0x1E => .ldReg (regA w) (regB w) (off5Of w)
  | _    => .stReg (regA w) (regB w) (off5Of w)

/-- Format N, ignored bits 0 (R63, R72). -/
def formatN (op : Opcode) : Word := op ++ 0#11

/-- Format R, ignored bits 0 (R64, R72). -/
def formatR (op : Opcode) (a : Reg) : Word := op ++ a ++ 0#8

/-- Format RR, ignored bits 0 (R65, R72). -/
def formatRR (op : Opcode) (a b : Reg) : Word := op ++ a ++ b ++ 0#5

/-- Formats RI and RSO: a register and a byte (R66, R68). -/
def formatRI (op : Opcode) (a : Reg) (imm : Byte) : Word := op ++ a ++ imm

/-- Format RRO (R67). -/
def formatRRO (op : Opcode) (a b : Reg) (off : Off5) : Word := op ++ a ++ b ++ off

/-- Format A, ignored bit 0 (R69, R72). -/
def formatA (op : Opcode) (addr : Addr) : Word := op ++ addr ++ 0#1

/-- The word the assembler emits for an instruction: the inverse of `decode`, with 0 in every ignored bit (R72, R77). -/
def encode : Instr → Word
  | .nop          => formatN 0b00000#5
  | .mv a b       => formatRR 0b00001#5 a b
  | .mvh a imm    => formatRI 0b00010#5 a imm
  | .mvl a imm    => formatRI 0b00011#5 a imm
  | .ldStack a o  => formatRI 0b00100#5 a o
  | .stStack a o  => formatRI 0b00101#5 a o
  | .inPort a     => formatR 0b00110#5 a
  | .outPort a    => formatR 0b00111#5 a
  | .cmp a b      => formatRR 0b01000#5 a b
  | .jmp t        => formatA 0b01001#5 t
  | .jc t         => formatA 0b01010#5 t
  | .jnc t        => formatA 0b01011#5 t
  | .jz t         => formatA 0b01100#5 t
  | .jnz t        => formatA 0b01101#5 t
  | .call t       => formatA 0b01110#5 t
  | .ret          => formatN 0b01111#5
  | .push a       => formatR 0b10000#5 a
  | .pop a        => formatR 0b10001#5 a
  | .add a b      => formatRR 0b10010#5 a b
  | .sub a b      => formatRR 0b10011#5 a b
  | .and a b      => formatRR 0b10100#5 a b
  | .or a b       => formatRR 0b10101#5 a b
  | .not a        => formatR 0b10110#5 a
  | .xor a b      => formatRR 0b10111#5 a b
  | .shr a b      => formatRR 0b11000#5 a b
  | .shl a b      => formatRR 0b11001#5 a b
  | .clr a        => formatR 0b11010#5 a
  | .lspImm t     => formatA 0b11011#5 t
  | .lspReg a     => formatR 0b11100#5 a
  | .rsp a        => formatR 0b11101#5 a
  | .ldReg a b o  => formatRRO 0b11110#5 a b o
  | .stReg a b o  => formatRRO 0b11111#5 a b o

/-- The mask of the bits an instruction's format ignores (R72): `w[10:0]` in format N, `w[7:0]` in R, `w[4:0]` in RR, `w[0]`
in A, none in RI, RRO and RSO. -/
def ignoredBits : Instr → Word
  | .nop | .ret => 0x07FF
  | .push _ | .pop _ | .inPort _ | .outPort _ | .clr _ | .lspReg _ | .rsp _ | .not _ => 0x00FF
  | .mv _ _ | .add _ _ | .sub _ _ | .cmp _ _ | .and _ _ | .or _ _ | .xor _ _ | .shr _ _ | .shl _ _ => 0x001F
  | .call _ | .jmp _ | .jc _ | .jnc _ | .jz _ | .jnz _ | .lspImm _ => 0x0001
  | .mvh _ _ | .mvl _ _ | .ldReg _ _ _ | .stReg _ _ _ | .ldStack _ _ | .stStack _ _ => 0x0000

/-- The instruction the decoder reads from the bits `w` of an opcode-table row of `nbits` bits. Every instruction is one
16-bit word (R60), so the bits from `nbits` up to 15 are 0 and a row of more than 16 bits is refused. -/
def decodeTableWord (nbits w : Nat) : Option Instr :=
  if nbits ≤ 16 then some (decode (BitVec.ofNat 16 (w % 2 ^ nbits))) else none

end Sys2Proof
end

