-- ==== Sys2Proof/Machine/Memory.lean ====
section
/-! DEFINITION. One array of 1024 cells of 16 bits (R40, R41): the list of the cells that hold a value. -/

namespace Sys2Proof.Machine

/-- The cells of one array that the image or a store has given a value, each an address and its 16-bit word, addresses
strictly rising. A cell that is not listed holds no value (R49); the smallest addressable unit is the whole cell (R41, R46),
so an entry is a cell and not a byte (log 10). -/
abbrev Memory := List (Nat × Word)

/-- The canonical form: every address is one of the 1024, and addresses strictly rise. No listed value can equal what an
unlisted cell reads as, since that is no value. -/
def Memory.wf : Memory → Bool
  | [] => true
  | (a, _) :: m => decide (a < 1024) && m.all (fun e => decide (a < e.1)) && Memory.wf m

/-- The value the cell at `a` holds, if it holds one. -/
def Memory.read : Memory → Nat → Option Word
  | [], _ => none
  | (b, x) :: m, a => if a = b then some x else Memory.read m a

/-- The cell at `a` takes the value `v`; the list stays in canonical form. -/
def Memory.write : Memory → Nat → Word → Memory
  | [], a, v => [(a, v)]
  | (b, x) :: m, a, v =>
    if a < b then (a, v) :: (b, x) :: m
    else if a = b then (a, v) :: m
    else (b, x) :: Memory.write m a v

end Sys2Proof.Machine
end

