-- ==== Sys2Proof/Config.lean ====
section
/-! DEFINITION. The free values: what the spec leaves without a value (R6). Each is opaque and has no body, so nothing in
Lean can evaluate it or prove a value of it; a statement about one holds for every value. -/

namespace Sys2Proof

/-- DESIGN CHOICE (log 3). The carry flag after the `n`-th reset (0 is initialization): the parameter `FLAGS_RESET`, of which
R33 says "a free draw of 0 or 1, never a fixed value". -/
opaque Config.resetCarry : Nat → Bool

/-- DESIGN CHOICE (log 3). The zero flag after the `n`-th reset, as `Config.resetCarry` (R33). -/
opaque Config.resetZero : Nat → Bool

/-- DESIGN CHOICE (log 4). The parameter `DMEM_INIT`: what a data read of a cell that the image does not define and no store
has written delivers; a function of the address, so it is fixed once drawn (R49, U3). -/
opaque Config.dmemInit : Addr → Word

/-- DESIGN CHOICE (log 6). The parameter `INPUT` where the environment has queued no value: what the `n`-th executed `in`
receives, a draw under no law (R35, D19). -/
opaque Config.inputDraw : Nat → Word

end Sys2Proof
end

