-- ==== Sys2Proof/Machine/Platform.lean ====
section
/-! DEFINITION. The platform parameters that R6 leaves open, as plain data, and the values `State.reset` gives them. -/

namespace Sys2Proof.Machine

/-- The parameter `MEM_ORG` (R42): one array for fetch and data, or a `ROM` for fetch and a `RAM` for data. -/
inductive MemOrg where
  /-- One array of 1024 cells. -/
  | unified
  /-- Two arrays of 1024 cells, `ROM` and `RAM`. -/
  | split
  deriving DecidableEq, Repr

/-- A range of addresses, both ends included. -/
structure Region where
  /-- The lowest address of the range. -/
  first : Addr
  /-- The highest address of the range. -/
  last : Addr
  deriving DecidableEq, Repr

/-- Whether an address lies in a range. -/
def Region.contains (r : Region) (a : Addr) : Bool :=
  decide (r.first.toNat ≤ a.toNat) && decide (a.toNat ≤ r.last.toNat)

/-- DESIGN CHOICE (log 1). The memory organisation of the state right after reset; the spec leaves it open (D14). -/
def resetMemOrg : MemOrg := .unified

/-- DESIGN CHOICE (log 2). The read-only ranges of the state right after reset: none, the "platform with all-RAM memory" of
R50. -/
def resetReadOnly : List Region := []

/-- DESIGN CHOICE (log 3). The carry flag after the `n`-th reset: a free value (R33). -/
def carryAfterReset (n : Nat) : Bool := Config.resetCarry n

/-- DESIGN CHOICE (log 3). The zero flag after the `n`-th reset: a free value (R33). -/
def zeroAfterReset (n : Nat) : Bool := Config.resetZero n

end Sys2Proof.Machine
end

