-- ==== Sys2Proof/Machine/State.lean ====
section
/-! DEFINITION. The state of the machine (R20 to R42), the reasons a step can stop, and the state right after reset. -/

namespace Sys2Proof.Machine

/-- Everything the spec gives the machine, as plain data. -/
structure State where
  /-- `r0` to `r7` (R20). -/
  regs : Vector Word 8
  /-- The program counter (R23). -/
  pc : Addr
  /-- The stack pointer, the next free cell (R27). -/
  sp : Addr
  /-- The carry flag (R30). -/
  c : Bool
  /-- The zero flag (R30). -/
  z : Bool
  /-- The array `M` under `unified`, the array `RAM` under `split` (R42). -/
  mem : Memory
  /-- The array `ROM` under `split` (R42); not used under `unified`. -/
  rom : Memory
  /-- The parameter `MEM_ORG` (R6, R42); no step changes it. -/
  memOrg : MemOrg
  /-- The parameter `WRITABLE` (R6, R50): the ranges that refuse a store under `unified`; no step changes it. -/
  readOnly : List Region
  /-- The output history, oldest first (R35). -/
  outputs : List Word
  /-- The input values the environment has presented and no `in` has received, next first (R35). -/
  inputs : List Word
  /-- The model's own: how many `in` have executed, the index of the next free input value (log 6). -/
  inputCount : Nat
  /-- The environment has asserted CPU reset; it takes effect before the next instruction (R220, R227). -/
  resetRequest : Bool
  /-- The model's own: how many CPU resets have been taken, the index of the free flag values (log 3). -/
  resetCount : Nat
  deriving DecidableEq, Repr

/-- Why a step stops with a fault. The hardware has no fault (R200); this is the model's own. -/
inductive Fault where
  /-- `step` raises it when the cell at `pc` is one that neither the image nor a store has defined (R49, U10: "Undefined cell:
  fault"). Safe: the hardware goes on with an unknown word. -/
  | undefinedFetch (addr : Addr)
  deriving DecidableEq, Repr

/-- Why a step is refused. -/
inductive Refusal where
  /-- `exec` would answer it for an instruction without a meaning; no arm does. Safe. -/
  | notModelled (mnemonic : String)
  /-- The four storing instructions (`st` in both forms, `push`, `call`) raise it when the address is not `WRITABLE` (R50: "the
  model refuses such a step (it is neither ignored nor performed)"). Safe: nothing can be proved past it. -/
  | storeToReadOnly (addr : Addr)
  deriving DecidableEq, Repr

/-- What a step or the meaning of an instruction answers. -/
abbrev Result := Host.Outcome State Fault Refusal

/-- The machine right after initialization (R38), with no program image placed and no input presented. -/
def State.reset : State where
  regs := Vector.replicate 8 0x0000
  pc := 0x000
  sp := 0x3FF
  c := carryAfterReset 0
  z := zeroAfterReset 0
  mem := []
  rom := []
  memOrg := resetMemOrg
  readOnly := resetReadOnly
  outputs := []
  inputs := []
  inputCount := 0
  resetRequest := false
  resetCount := 0

end Sys2Proof.Machine
end

