-- ==== Sys2Proof/Machine/Ops.lean ====
section
/-! DEFINITION. The named operations over registers, memory, ports and reset (R8), and what the environment can do (R227).

There is no taking of an exception and no return from one: the machine has none (R200 to R204). -/

namespace Sys2Proof.Machine

/-! Registers (R20), program counter (R24) and flags (R30). -/

/-- `x[r]` (R8). -/
def State.reg (s : State) (r : Reg) : Word := s.regs[r.toFin]

/-- `x[r] <- v`: no register is hard-wired (R20). -/
def State.setReg (s : State) (r : Reg) (v : Word) : State := { s with regs := s.regs.set r.toFin v }

/-- `pc <- pc +10 1`, the step rule's increment (R9, R24). -/
def State.advance (s : State) : State := { s with pc := s.pc + 1 }

/-- `pc <- target`: no increment follows (R9, R24, D5). -/
def State.jumpTo (s : State) (target : Addr) : State := { s with pc := target }

/-- A conditional transfer: to the target, or on to the next cell (R24). -/
def State.branch (s : State) (taken : Bool) (target : Addr) : State := if taken then s.jumpTo target else s.advance

/-- `sp <- a` (R28). -/
def State.setSp (s : State) (a : Addr) : State := { s with sp := a }

/-- Both flags are written (R31). -/
def State.setFlags (s : State) (c z : Bool) : State := { s with c := c, z := z }

/-! Memory (R42). -/

/-- `FetchWord(a)`: the word of the cell, if the image or a store has defined it (R42, R49). -/
def State.fetchWord (s : State) (a : Addr) : Option Word :=
  match s.memOrg with
  | .unified => s.mem.read a.toNat
  | .split => s.rom.read a.toNat

/-- `MemRead(a, 16)`: a cell without a value gives the free value of its address (R42, R49, log 4). -/
def State.memRead (s : State) (a : Addr) : Word := (s.mem.read a.toNat).getD (Config.dmemInit a)

/-- `WRITABLE(a)`: true for every address under `split` (R42, R50). -/
def State.writable (s : State) (a : Addr) : Bool :=
  match s.memOrg with
  | .unified => !(s.readOnly.any (fun r => r.contains a))
  | .split => true

/-- `M[a] <- v`, or `RAM[a] <- v`: the store to a writable cell (R42, R48). -/
def State.memWrite (s : State) (a : Addr) (v : Word) : State := { s with mem := s.mem.write a.toNat v }

/-- `MemWrite(a, 16, v)` and then the rest of the instruction: refused where `WRITABLE(a)` is false (R50, D16). -/
def State.storeThen (s : State) (a : Addr) (v : Word) (rest : State → State) : Result :=
  if s.writable a then .next (rest (s.memWrite a v)) else .refused (.storeToReadOnly a)

/-! Ports (R35). -/

/-- The value `PortIn()` delivers: the next one the environment has presented, else a free value (R35, D19, log 6). -/
def State.nextInput (s : State) : Word := s.inputs.headD (Config.inputDraw s.inputCount)

/-- One input value is consumed. -/
def State.consumeInput (s : State) : State := { s with inputs := s.inputs.tail, inputCount := s.inputCount + 1 }

/-- `PortOut(v)`: the value joins the output history (R35). -/
def State.portOut (s : State) (v : Word) : State := { s with outputs := s.outputs ++ [v] }

/-! Reset (R220, R221). -/

/-- CPU reset: `pc`, `sp` and the registers as R38 says, fresh free values for the flags; memory, the ports and the platform
stay as they were (R220, R221, D26). -/
def State.cpuReset (s : State) : State :=
  { s with
    regs := Vector.replicate 8 0x0000
    pc := 0x000
    sp := 0x3FF
    c := carryAfterReset (s.resetCount + 1)
    z := zeroAfterReset (s.resetCount + 1)
    resetRequest := false
    resetCount := s.resetCount + 1 }

/-! What the environment can do (R227). -/

/-- A program image: the cells the assembler placed (R49). -/
abbrev Image := List (Addr × Word)

/-- One word of the image is put where instructions are fetched from (R42, R223). -/
def State.placeWord (s : State) (a : Addr) (w : Word) : State :=
  match s.memOrg with
  | .unified => { s with mem := s.mem.write a.toNat w }
  | .split => { s with rom := s.rom.write a.toNat w }

/-- The image is present in memory (R49, R223). -/
def State.withImage (s : State) (image : Image) : State := image.foldl (fun t e => t.placeWord e.1 e.2) s

/-- The environment presents one more value on the input port (R35, R227). -/
def State.presentInput (s : State) (v : Word) : State := { s with inputs := s.inputs ++ [v] }

/-- The environment asserts CPU reset (R220, R227). -/
def State.requestReset (s : State) : State := { s with resetRequest := true }

end Sys2Proof.Machine
end

