-- ==== Sys2Proof/Machine/Operands.lean ====
section
/-! DEFINITION. Operand forms: width conversions, effective addresses, and the values the shifts compute. -/

namespace Sys2Proof.Machine

/-- "The bottom 10 bits" of a 16-bit value (R8, R105, R150). -/
def low10 (v : Word) : Addr := v.setWidth 10

/-- `zext_16` of a 10-bit value: bits 15:10 are zero (R8, D7). -/
def zext16 (a : Addr) : Word := a.setWidth 16

/-- The effective address of the register-offset form, modulo 2^10 (R150). -/
def eaReg (s : State) (b : Reg) (off : Off5) : Addr := low10 (s.reg b) + off.signExtend 10

/-- The effective address of the stack-offset form, modulo 2^10 (R150). -/
def eaStack (s : State) (off : Byte) : Addr := s.sp + off.signExtend 10

/-- `{ imm8, x[7:0] }`: the high byte replaced (R140). -/
def withHighByte (x : Word) (imm : Byte) : Word := imm ++ x.extractLsb' 0 8

/-- `{ x[15:8], imm8 }`: the low byte replaced (R141). -/
def withLowByte (x : Word) (imm : Byte) : Word := x.extractLsb' 8 8 ++ imm

/-- Logical shift right; an amount of 16 or more gives zero (R127, D11). -/
def shiftRight (x n : Word) : Word := if n.toNat < 16 then x >>> n.toNat else 0x0000

/-- Logical shift left; an amount of 16 or more gives zero (R128, D11). -/
def shiftLeft (x n : Word) : Word := if n.toNat < 16 then x <<< n.toNat else 0x0000

end Sys2Proof.Machine
end

