-- ==== Sys2Proof/Machine/AddressOps.lean ====
section
/-! DEFINITION. Address operations: `call`, `jmp`, `jc`, `jnc`, `jz`, `jnz`, `lsp` (immediate) (R170 to R177). -/

namespace Sys2Proof.Machine

/-- `call addr`: `pc + 1`, zero-extended, is pushed and `pc` takes the address (R170, D7). -/
def execCall (addr : Addr) (s : State) : Result :=
  s.storeThen s.sp (zext16 (s.pc + 1)) (fun t => (t.setSp (s.sp - 1)).jumpTo addr)

/-- `jmp addr` (R171). -/
def execJmp (addr : Addr) (s : State) : Result := .next (s.jumpTo addr)

/-- `jc addr`: taken when `c = 1` (R172). -/
def execJc (addr : Addr) (s : State) : Result := .next (s.branch s.c addr)

/-- `jnc addr`: taken when `c = 0` (R173). -/
def execJnc (addr : Addr) (s : State) : Result := .next (s.branch (!s.c) addr)

/-- `jz addr`: taken when `z = 1` (R174). -/
def execJz (addr : Addr) (s : State) : Result := .next (s.branch s.z addr)

/-- `jnz addr`: taken when `z = 0` (R175). -/
def execJnz (addr : Addr) (s : State) : Result := .next (s.branch (!s.z) addr)

/-- `lsp addr`: `sp` takes the address; not a transfer (R176). -/
def execLspImm (addr : Addr) (s : State) : Result := .next (s.setSp addr).advance

end Sys2Proof.Machine
end

