-- ==== Sys2Proof/Machine/LoadStore.lean ====
section
/-! DEFINITION. Loads and stores, register-offset and stack-offset forms (R150 to R154). -/

namespace Sys2Proof.Machine

/-- `ld rA, [rB+off5]`: the address is formed before the register is written (R151, D23). -/
def execLdReg (a b : Reg) (off : Off5) (s : State) : Result := .next (s.setReg a (s.memRead (eaReg s b off))).advance

/-- `st rA, [rB+off5]` (R152). -/
def execStReg (a b : Reg) (off : Off5) (s : State) : Result := s.storeThen (eaReg s b off) (s.reg a) State.advance

/-- `ld rA, [sp+off8]`: `sp` does not change (R153). -/
def execLdStack (a : Reg) (off : Byte) (s : State) : Result := .next (s.setReg a (s.memRead (eaStack s off))).advance

/-- `st rA, [sp+off8]`: `sp` does not change (R154). -/
def execStStack (a : Reg) (off : Byte) (s : State) : Result := s.storeThen (eaStack s off) (s.reg a) State.advance

end Sys2Proof.Machine
end

