-- ==== Sys2Proof/Machine/NoArgument.lean ====
section
/-! DEFINITION. Operations with no arguments: `nop`, `ret` (R90, R91). -/

namespace Sys2Proof.Machine

/-- `nop`: only `pc` changes (R90). -/
def execNop (s : State) : Result := .next s.advance

/-- `ret`: the low 10 bits of the cell at `sp + 1` become `pc`, and `sp` is incremented (R91, D7). -/
def execRet (s : State) : Result := .next ((s.setSp (s.sp + 1)).jumpTo (low10 (s.memRead (s.sp + 1))))

end Sys2Proof.Machine
end

