-- ==== Sys2Proof/Machine/RegisterImmediate.lean ====
section
/-! DEFINITION. Register-immediate operations: `mvh`, `mvl` (R140, R141). -/

namespace Sys2Proof.Machine

/-- `mvh rA, imm8`: bits 15:8 take the immediate, bits 7:0 stay (R140). -/
def execMvh (a : Reg) (imm : Byte) (s : State) : Result := .next (s.setReg a (withHighByte (s.reg a) imm)).advance

/-- `mvl rA, imm8`: bits 7:0 take the immediate, bits 15:8 stay (R141). -/
def execMvl (a : Reg) (imm : Byte) (s : State) : Result := .next (s.setReg a (withLowByte (s.reg a) imm)).advance

end Sys2Proof.Machine
end

