-- ==== Sys2Proof/Machine/Flags.lean ====
section
/-! DEFINITION. The flag computations of R31. -/

namespace Sys2Proof.Machine

/-- `z` of every flag writer but `cmp`: the result is 0x0000 (R31). -/
def isZero (r : Word) : Bool := decide (r = 0x0000)

/-- `c` of `add`: the carry out of bit 15 (R121, D9). -/
def addCarry (x y : Word) : Bool := decide (2 ^ 16 ≤ x.toNat + y.toNat)

/-- `c` of `sub`: a borrow is needed, an unsigned comparison (R122, D9). -/
def subBorrow (x y : Word) : Bool := decide (x.toNat < y.toNat)

/-- `z` of `cmp`: the registers are equal (R123). -/
def cmpEqual (x y : Word) : Bool := decide (x = y)

/-- `c` of `cmp`: B is greater than A, both read as two's complement (R123, D10). -/
def cmpGreater (x y : Word) : Bool := decide (y.toInt > x.toInt)

/-- A result of the logic instructions and shifts goes to register `a`, `z` tells whether it is zero, and `c` is cleared (R31).
-/
def State.setLogic (s : State) (a : Reg) (r : Word) : State := (s.setReg a r).setFlags false (isZero r)

end Sys2Proof.Machine
end

