-- ==== Sys2Proof/Machine/RegisterOps.lean ====
section
/-! DEFINITION. Register operations: `push`, `pop`, `in`, `out`, `clr`, `lsp` (register), `rsp`, `not` (R100 to R107). -/

namespace Sys2Proof.Machine

/-- `push rA`: the cell at the old `sp` is written, then `sp` is decremented (R100). -/
def execPush (a : Reg) (s : State) : Result :=
  s.storeThen s.sp (s.reg a) (fun t => (t.setSp (s.sp - 1)).advance)

/-- `pop rA`: the cell at `sp + 1` is loaded, `sp` is incremented; no flag changes (R101). -/
def execPop (a : Reg) (s : State) : Result :=
  .next ((s.setReg a (s.memRead (s.sp + 1))).setSp (s.sp + 1)).advance

/-- `in rA`: the register receives the value the input port delivers to this execution (R102). -/
def execInPort (a : Reg) (s : State) : Result := .next (s.consumeInput.setReg a s.nextInput).advance

/-- `out rA`: all 16 bits of the register join the output history (R103). -/
def execOutPort (a : Reg) (s : State) : Result := .next (s.portOut (s.reg a)).advance

/-- `clr rA`: the register is 0x0000 and no flag changes (R104). -/
def execClr (a : Reg) (s : State) : Result := .next (s.setReg a 0x0000).advance

/-- `lsp rA`: `sp` takes the bottom 10 bits of the register (R105). -/
def execLspReg (a : Reg) (s : State) : Result := .next (s.setSp (low10 (s.reg a))).advance

/-- `rsp rA`: the register takes `sp`, bits 15:10 zero (R106, D7). -/
def execRsp (a : Reg) (s : State) : Result := .next (s.setReg a (zext16 s.sp)).advance

/-- `not rA`: every bit inverted; `z` from the result, `c` cleared (R107). -/
def execNot (a : Reg) (s : State) : Result := .next (s.setLogic a (s.reg a ^^^ 0xFFFF)).advance

end Sys2Proof.Machine
end

