-- ==== Sys2Proof/Machine/RegisterRegister.lean ====
section
/-! DEFINITION. Register-register operations: `mv`, `add`, `sub`, `cmp`, `and`, `or`, `xor`, `shr`, `shl` (R120 to R129). -/

namespace Sys2Proof.Machine

/-- `mv rA, rB` (R120). -/
def execMv (a b : Reg) (s : State) : Result := .next (s.setReg a (s.reg b)).advance

/-- `add rA, rB`: sum modulo 2^16, `c` the carry out, `z` from the sum (R121). -/
def execAdd (a b : Reg) (s : State) : Result :=
  .next ((s.setReg a (s.reg a + s.reg b)).setFlags (addCarry (s.reg a) (s.reg b)) (isZero (s.reg a + s.reg b))).advance

/-- `sub rA, rB`: A minus B modulo 2^16, `c` the borrow, `z` from the difference (R122). -/
def execSub (a b : Reg) (s : State) : Result :=
  .next ((s.setReg a (s.reg a - s.reg b)).setFlags (subBorrow (s.reg a) (s.reg b)) (isZero (s.reg a - s.reg b))).advance

/-- `cmp rA, rB`: only the flags; `c` from the signed order (R123). -/
def execCmp (a b : Reg) (s : State) : Result :=
  .next (s.setFlags (cmpGreater (s.reg a) (s.reg b)) (cmpEqual (s.reg a) (s.reg b))).advance

/-- `and rA, rB` (R124). -/
def execAnd (a b : Reg) (s : State) : Result := .next (s.setLogic a (s.reg a &&& s.reg b)).advance

/-- `or rA, rB` (R125). -/
def execOr (a b : Reg) (s : State) : Result := .next (s.setLogic a (s.reg a ||| s.reg b)).advance

/-- `xor rA, rB` (R126). -/
def execXor (a b : Reg) (s : State) : Result := .next (s.setLogic a (s.reg a ^^^ s.reg b)).advance

/-- `shr rA, rB`: logical, the whole of B is the amount (R127). -/
def execShr (a b : Reg) (s : State) : Result := .next (s.setLogic a (shiftRight (s.reg a) (s.reg b))).advance

/-- `shl rA, rB`: logical, the whole of B is the amount (R128). -/
def execShl (a b : Reg) (s : State) : Result := .next (s.setLogic a (shiftLeft (s.reg a) (s.reg b))).advance

end Sys2Proof.Machine
end

