-- ==== Sys2Proof/Machine/Step.lean ====
section
/-! DEFINITION. One step of the machine (R9), and the placing of one instruction where the next step fetches. -/

namespace Sys2Proof.Machine

/-- One step. A requested CPU reset is taken between two instructions and is a step of its own (R220, log 7); otherwise the
word at `pc` is fetched, decoded and executed (R9). A cell without a value cannot be fetched (R49, U10). -/
def step (s : State) : Host.Outcome State Fault Refusal :=
  if s.resetRequest then .next s.cpuReset
  else
    match s.fetchWord s.pc with
    | some w => exec (decode w) s
    | none => .fault (.undefinedFetch s.pc)

/-- The state with the instruction of bits `w` where `step` fetches its next one: the cell at `pc` of the array that is
fetched from (R42), and no reset requested. -/
def State.withFetchWord (s : State) (nbits w : Nat) : State :=
  { s.placeWord s.pc (BitVec.ofNat 16 (w % 2 ^ (min nbits 16))) with resetRequest := false }

end Sys2Proof.Machine
end

