-- ==== Sys2Proof/Machine/Assembler.lean ====
section
/-! DEFINITION. The assembler: from source lines to the program image (R78 to R84, R190 to R195). What the source leaves out of
its assembler follows D25; log 9 names the rest. -/

namespace Sys2Proof.Asm

/-- The name of a tag (R78, R195). -/
abbrev Tag := List Char

/-- The words written in assembly (R83). `ld`, `st` and `lsp` name two instructions each (R82). -/
inductive Mnemonic where
  | nop | ret | push | pop | inPort | outPort | clr | lsp | rsp | not
  | mv | add | sub | cmp | and | or | xor | shr | shl
  | mvh | mvl | ld | st
  | call | jmp | jc | jnc | jz | jnz
  deriving DecidableEq, Repr

/-- An operand as written (R79 to R82). -/
inductive Operand where
  /-- `rN`. -/
  | reg (n : Nat)
  /-- A number. -/
  | num (n : Int)
  /-- A tag's name. -/
  | tag (t : Tag)
  /-- `[rN]`, `[rN+n]`, `[rN-n]`. -/
  | atReg (n : Nat) (off : Int)
  /-- `[sp]`, `[sp+n]`, `[sp-n]`. -/
  | atSp (off : Int)
  deriving DecidableEq, Repr

/-- One instruction or directive (R78, R190). -/
inductive Item where
  /-- An instruction. -/
  | instr (m : Mnemonic) (ops : List Operand)
  /-- `.org addr` (R191). -/
  | org (addr : Int)
  /-- `.string tag "text"`: the character codes, without the terminating zero (R192). -/
  | string (tag : Tag) (chars : List Byte)
  /-- `.ldtag rA, tag` (R193). -/
  | ldtag (r : Nat) (tag : Tag)
  /-- `.resv n`, `.resv tag n` (R194). -/
  | resv (tag : Option Tag) (n : Int)
  deriving DecidableEq, Repr

/-- A source line that holds something: a tag defined by `name:` and the item (R78). -/
structure Line where
  /-- The tag before the item, if there is one. -/
  label : Option Tag
  /-- What stands on the line. -/
  item : Item
  deriving DecidableEq, Repr

/-- Why the assembler rejects a program (D25, U17). -/
inductive AsmError where
  /-- The text of a line is none that is read. DESIGN CHOICE (log 9): the spec shows examples (R78 to R83) and no grammar. -/
  | text
  /-- The operands are not of a shape R83 shows for the mnemonic. DESIGN CHOICE (log 9): such a line is rejected. -/
  | shape
  /-- An operand is out of range (R80, D25). -/
  | range
  /-- A tag is used and never defined. DESIGN CHOICE (log 9): the spec does not say what the assembler then does. -/
  | unknownTag (t : Tag)
  /-- A tag is defined twice (log 9). -/
  | duplicateTag (t : Tag)
  /-- An item would pass 0x3FF (R190). -/
  | overflow
  /-- `.org` would move backwards, which alone could place two items at one address (R190, U17). -/
  | backwards
  deriving DecidableEq, Repr

/-- The parameter `STRING_PACKING` (R192): how the bytes of a string, the terminating zero among them, fill 16-bit cells. The
spec leaves it open (D25), so it is an argument of the assembler. -/
abbrev StringPacking := List Byte → List Word

/-- One character a cell, bits 15:8 zero: one of the packings R192 names. -/
def onePerCell : StringPacking := fun bs => bs.map (fun b => b.setWidth 16)

/-- Two characters a cell, the first in the high byte, an odd last one padded with zero: another packing of R192. -/
def twoPerCellHighFirst : StringPacking
  | [] => []
  | [b] => [b ++ 0#8]
  | b :: d :: bs => (b ++ d) :: twoPerCellHighFirst bs

/-- Two characters a cell, the first in the low byte, an odd last one padded with zero: another packing of R192. -/
def twoPerCellLowFirst : StringPacking
  | [] => []
  | [b] => [0#8 ++ b]
  | b :: d :: bs => (d ++ b) :: twoPerCellLowFirst bs

/-- The tags defined so far and their addresses (R195). -/
abbrev Tags := List (Tag × Addr)

/-- The address of a tag (R195). DESIGN CHOICE (log 9): a program that uses a tag it never defines is rejected. -/
def tagAddr (tags : Tags) (t : Tag) : Except AsmError Addr :=
  match tags.find? (fun e => decide (e.1 = t)) with
  | some e => .ok e.2
  | none => .error (.unknownTag t)

/-- A register operand (R79). -/
def regOperand (n : Nat) : Except AsmError Reg := if fitsReg n then .ok (BitVec.ofNat 3 n) else .error .range

/-- An `imm8` (R71). -/
def imm8Operand (n : Int) : Except AsmError Byte := if fitsImm8 n then .ok (BitVec.ofInt 8 n) else .error .range

/-- An `off5` (R71, R81). -/
def off5Operand (n : Int) : Except AsmError Off5 := if fitsOff5 n then .ok (BitVec.ofInt 5 n) else .error .range

/-- An `off8` (R71, R81). -/
def off8Operand (n : Int) : Except AsmError Byte := if fitsOff8 n then .ok (BitVec.ofInt 8 n) else .error .range

/-- An address operand: a number or a tag (R82). -/
def addrOperand (tags : Tags) : Operand → Except AsmError Addr
  | .num n => if fitsAddr n then .ok (BitVec.ofInt 10 n) else .error .range
  | .tag t => tagAddr tags t
  | _ => .error .shape

/-- One register (R83). -/
def oneReg (make : Reg → Instr) : List Operand → Except AsmError Instr
  | [.reg a] => do return make (← regOperand a)
  | _ => .error .shape

/-- Two registers, Reg A first (R65, R83). -/
def twoRegs (make : Reg → Reg → Instr) : List Operand → Except AsmError Instr
  | [.reg a, .reg b] => do return make (← regOperand a) (← regOperand b)
  | _ => .error .shape

/-- A register and an 8-bit immediate (R83). -/
def regImm (make : Reg → Byte → Instr) : List Operand → Except AsmError Instr
  | [.reg a, .num n] => do return make (← regOperand a) (← imm8Operand n)
  | _ => .error .shape

/-- A data register and a memory operand, whose base chooses the form (R81, R82). -/
def memory (viaReg : Reg → Reg → Off5 → Instr) (viaSp : Reg → Byte → Instr) : List Operand → Except AsmError Instr
  | [.reg a, .atReg b off] => do return viaReg (← regOperand a) (← regOperand b) (← off5Operand off)
  | [.reg a, .atSp off] => do return viaSp (← regOperand a) (← off8Operand off)
  | _ => .error .shape

/-- One address (R82). -/
def oneAddr (tags : Tags) (make : Addr → Instr) : List Operand → Except AsmError Instr
  | [o] => do return make (← addrOperand tags o)
  | _ => .error .shape

/-- No operand (R83). -/
def noOperand (i : Instr) : List Operand → Except AsmError Instr
  | [] => .ok i
  | _ => .error .shape

/-- `lsp` with a register is opcode 11100, with a number or a tag 11011 (R82). -/
def lspOperand (tags : Tags) : List Operand → Except AsmError Instr
  | [.reg a] => oneReg .lspReg [.reg a]
  | ops => oneAddr tags .lspImm ops

/-- The instruction a mnemonic and its operands spell (R81 to R83). -/
def assembleInstr (tags : Tags) (m : Mnemonic) (ops : List Operand) : Except AsmError Instr :=
  match m with
  | .nop => noOperand .nop ops
  | .ret => noOperand .ret ops
  | .push => oneReg .push ops
  | .pop => oneReg .pop ops
  | .inPort => oneReg .inPort ops
  | .outPort => oneReg .outPort ops
  | .clr => oneReg .clr ops
  | .lsp => lspOperand tags ops
  | .rsp => oneReg .rsp ops
  | .not => oneReg .not ops
  | .mv => twoRegs .mv ops
  | .add => twoRegs .add ops
  | .sub => twoRegs .sub ops
  | .cmp => twoRegs .cmp ops
  | .and => twoRegs .and ops
  | .or => twoRegs .or ops
  | .xor => twoRegs .xor ops
  | .shr => twoRegs .shr ops
  | .shl => twoRegs .shl ops
  | .mvh => regImm .mvh ops
  | .mvl => regImm .mvl ops
  | .ld => memory .ldReg .ldStack ops
  | .st => memory .stReg .stStack ops
  | .call => oneAddr tags .call ops
  | .jmp => oneAddr tags .jmp ops
  | .jc => oneAddr tags .jc ops
  | .jnc => oneAddr tags .jnc ops
  | .jz => oneAddr tags .jz ops
  | .jnz => oneAddr tags .jnz ops

/-- The operand that names a register. -/
def regOp (r : Reg) : Operand := .reg r.toNat

/-- The operand that writes an address as a number. -/
def addrOp (a : Addr) : Operand := .num a.toNat

/-- How an instruction is written in assembly (R83), every address as a number. -/
def spell : Instr → Mnemonic × List Operand
  | .nop => (.nop, [])
  | .mv a b => (.mv, [regOp a, regOp b])
  | .mvh a imm => (.mvh, [regOp a, .num imm.toNat])
  | .mvl a imm => (.mvl, [regOp a, .num imm.toNat])
  | .ldStack a off => (.ld, [regOp a, .atSp off.toInt])
  | .stStack a off => (.st, [regOp a, .atSp off.toInt])
  | .inPort a => (.inPort, [regOp a])
  | .outPort a => (.outPort, [regOp a])
  | .cmp a b => (.cmp, [regOp a, regOp b])
  | .jmp t => (.jmp, [addrOp t])
  | .jc t => (.jc, [addrOp t])
  | .jnc t => (.jnc, [addrOp t])
  | .jz t => (.jz, [addrOp t])
  | .jnz t => (.jnz, [addrOp t])
  | .call t => (.call, [addrOp t])
  | .ret => (.ret, [])
  | .push a => (.push, [regOp a])
  | .pop a => (.pop, [regOp a])
  | .add a b => (.add, [regOp a, regOp b])
  | .sub a b => (.sub, [regOp a, regOp b])
  | .and a b => (.and, [regOp a, regOp b])
  | .or a b => (.or, [regOp a, regOp b])
  | .not a => (.not, [regOp a])
  | .xor a b => (.xor, [regOp a, regOp b])
  | .shr a b => (.shr, [regOp a, regOp b])
  | .shl a b => (.shl, [regOp a, regOp b])
  | .clr a => (.clr, [regOp a])
  | .lspImm t => (.lsp, [addrOp t])
  | .lspReg a => (.lsp, [regOp a])
  | .rsp a => (.rsp, [regOp a])
  | .ldReg a b off => (.ld, [regOp a, .atReg b.toNat off.toInt])
  | .stReg a b off => (.st, [regOp a, .atReg b.toNat off.toInt])

/-- The two instructions `.ldtag rA, tag` stands for, `T` the tag's address: `mvh rA, T >> 8`, `mvl rA, T & 0xFF` (R193). -/
def ldtagInstrs (a : Reg) (target : Addr) : List Instr :=
  [.mvh a ((target.setWidth 16 : Word).extractLsb' 8 8), .mvl a ((target.setWidth 16 : Word).extractLsb' 0 8)]

/-- The bytes `.string` places: the characters and a terminating zero (R192). -/
def stringBytes (chars : List Byte) : List Byte := chars ++ [0x00]

/-- The location counter after an item that stands at `loc` (R190 to R194). -/
def nextLoc (pack : StringPacking) (loc : Nat) : Item → Except AsmError Nat
  | .org addr =>
    if !fitsAddr addr then .error .range
    else if addr.toNat < loc then .error .backwards
    else .ok addr.toNat
  | .instr _ _ => if loc + 1 ≤ 1024 then .ok (loc + 1) else .error .overflow
  | .ldtag _ _ => if loc + 2 ≤ 1024 then .ok (loc + 2) else .error .overflow
  | .string _ chars =>
    if loc + (pack (stringBytes chars)).length ≤ 1024 then .ok (loc + (pack (stringBytes chars)).length)
    else .error .overflow
  | .resv _ n =>
    if n < 0 then .error .range
    else if loc + n.toNat ≤ 1024 then .ok (loc + n.toNat)
    else .error .overflow

/-- The tags a line defines; each takes the value of the location counter at the line (R190, R195). -/
def tagsOf (l : Line) : List Tag :=
  l.label.toList ++
    match l.item with
    | .string t _ => [t]
    | .resv (some t) _ => [t]
    | _ => []

/-- A tag is bound to the location counter. -/
def defineTag (loc : Nat) (tags : Tags) (t : Tag) : Except AsmError Tags :=
  if tags.any (fun e => decide (e.1 = t)) then .error (.duplicateTag t)
  else if loc < 1024 then .ok (tags ++ [(t, BitVec.ofNat 10 loc)])
  else .error .overflow

/-- First pass: every tag of the program; a tag may be used before it is defined (R78). -/
def collectTags (pack : StringPacking) (loc : Nat) (tags : Tags) : List Line → Except AsmError Tags
  | [] => .ok tags
  | l :: ls => do
    let tags' ← (tagsOf l).foldlM (defineTag loc) tags
    collectTags pack (← nextLoc pack loc l.item) tags' ls

/-- The words an item places (R190 to R194). -/
def wordsOf (pack : StringPacking) (tags : Tags) : Item → Except AsmError (List Word)
  | .instr m ops => do return [encode (← assembleInstr tags m ops)]
  | .ldtag r t => do return (ldtagInstrs (← regOperand r) (← tagAddr tags t)).map encode
  | .string _ chars => .ok (pack (stringBytes chars))
  | .org _ => .ok []
  | .resv _ _ => .ok []

/-- Words placed from the location counter on (R190). -/
def placeFrom (loc : Nat) : List Word → Machine.Image
  | [] => []
  | w :: ws => (BitVec.ofNat 10 loc, w) :: placeFrom (loc + 1) ws

/-- Second pass: the image (R190). -/
def emit (pack : StringPacking) (tags : Tags) (loc : Nat) : List Line → Except AsmError Machine.Image
  | [] => .ok []
  | l :: ls => do
    let words ← wordsOf pack tags l.item
    let rest ← emit pack tags (← nextLoc pack loc l.item) ls
    return placeFrom loc words ++ rest

/-- The image of a program; the location counter starts at 0x000 (R190, D25). -/
def assemble (pack : StringPacking) (lines : List Line) : Except AsmError Machine.Image := do
  let tags ← collectTags pack 0 [] lines
  emit pack tags 0 lines

end Sys2Proof.Asm
end

