-- ==== Sys2Proof/Safety.lean ====
section
/-! DEFINITION. What counts as a good state and a safe run, and the terms the claims use: the invariant, the end of a run, which
instruction touches what, and what it means that a part of the state is as before. -/

namespace Sys2Proof.Machine

/-- The invariant every step keeps: both arrays are in canonical form, so they hold at most the 1024 cells of R40 and equal
memories are equal data. -/
def State.Inv (s : State) : Prop := s.mem.wf = true ∧ s.rom.wf = true

/-- "A run has ended when `FetchWord(pc)` decodes to `jmp` with `addr = pc`" (R226, D22). -/
def runEnded (s : State) : Prop := ∃ w, s.fetchWord s.pc = some w ∧ decode w = .jmp s.pc

/-- The instructions of a list, one after the other, each by its own meaning. -/
def execAll : List Instr → State → Result
  | [], s => .next s
  | i :: is, s =>
    match exec i s with
    | .next t => execAll is t
    | .fault r => .fault r
    | .refused r => .refused r

/-- What an instruction answers, with its next state changed by `f`; a stop stays the stop it is. -/
def mapNext (f : State → State) : Result → Result
  | .next t => .next (f t)
  | .fault p => .fault p
  | .refused p => .refused p

/-! Which instruction touches what (R22, R24, R28, R31, R32, R47). -/

/-- The general purpose register an instruction writes (R22). -/
def destination : Instr → Option Reg
  | .pop a | .inPort a | .clr a | .rsp a | .not a => some a
  | .mv a _ | .add a _ | .sub a _ | .and a _ | .or a _ | .xor a _ | .shr a _ | .shl a _ => some a
  | .mvh a _ | .mvl a _ | .ldStack a _ | .ldReg a _ _ => some a
  | .nop | .ret | .push _ | .outPort _ | .lspReg _ | .cmp _ _ | .stStack _ _ | .stReg _ _ _ => none
  | .call _ | .jmp _ | .jc _ | .jnc _ | .jz _ | .jnz _ | .lspImm _ => none

/-- The address of the one cell an instruction stores to (R47). -/
def storeAddress (i : Instr) (s : State) : Option Addr :=
  match i with
  | .stReg _ b off => some (eaReg s b off)
  | .stStack _ off => some (eaStack s off)
  | .push _ | .call _ => some s.sp
  | .nop | .ret | .pop _ | .inPort _ | .outPort _ | .clr _ | .lspReg _ | .rsp _ | .not _ => none
  | .mv _ _ | .add _ _ | .sub _ _ | .cmp _ _ | .and _ _ | .or _ _ | .xor _ _ | .shr _ _ | .shl _ _ => none
  | .mvh _ _ | .mvl _ _ | .ldStack _ _ | .ldReg _ _ _ => none
  | .jmp _ | .jc _ | .jnc _ | .jz _ | .jnz _ | .lspImm _ => none

/-- The nine instructions that write the flags (R31). -/
def writesFlags : Instr → Bool
  | .not _ | .add _ _ | .sub _ _ | .cmp _ _ | .and _ _ | .or _ _ | .xor _ _ | .shr _ _ | .shl _ _ => true
  | .nop | .ret | .push _ | .pop _ | .inPort _ | .outPort _ | .clr _ | .lspReg _ | .rsp _ | .mv _ _ => false
  | .mvh _ _ | .mvl _ _ | .ldStack _ _ | .stStack _ _ | .ldReg _ _ _ | .stReg _ _ _ => false
  | .call _ | .jmp _ | .jc _ | .jnc _ | .jz _ | .jnz _ | .lspImm _ => false

/-- `jc` and `jnc` read `c` (R32). -/
def readsCarry (i : Instr) : Prop := ∃ t, i = .jc t ∨ i = .jnc t

/-- `jz` and `jnz` read `z` (R32). -/
def readsZero (i : Instr) : Prop := ∃ t, i = .jz t ∨ i = .jnz t

/-- Where control goes if the instruction transfers it (R24, R26); `none` is the increment. -/
def transferTarget (i : Instr) (s : State) : Option Addr :=
  match i with
  | .jmp t | .call t => some t
  | .ret => some (low10 (s.memRead (s.sp + 1)))
  | .jc t => if s.c then some t else none
  | .jnc t => if s.c then none else some t
  | .jz t => if s.z then some t else none
  | .jnz t => if s.z then none else some t
  | .nop | .push _ | .pop _ | .inPort _ | .outPort _ | .clr _ | .lspReg _ | .rsp _ | .not _ => none
  | .mv _ _ | .add _ _ | .sub _ _ | .cmp _ _ | .and _ _ | .or _ _ | .xor _ _ | .shr _ _ | .shl _ _ => none
  | .mvh _ _ | .mvl _ _ | .ldStack _ _ | .stStack _ _ | .ldReg _ _ _ | .stReg _ _ _ | .lspImm _ => none

/-! Frames: a part of the state `t` after is what it was in `s` before. -/

/-- No general purpose register but possibly `a` has changed. -/
def SameRegsExcept (a : Reg) (s t : State) : Prop := ∀ r, r ≠ a → t.reg r = s.reg r

/-- No general purpose register has changed. -/
def SameRegs (s t : State) : Prop := ∀ r, t.reg r = s.reg r

/-- Neither flag has changed. -/
def SameFlags (s t : State) : Prop := t.c = s.c ∧ t.z = s.z

/-- The cell at `x` reads as before, by a load and by a fetch. -/
def SameCell (x : Addr) (s t : State) : Prop := t.memRead x = s.memRead x ∧ t.fetchWord x = s.fetchWord x

/-- Every cell reads as before, by a load and by a fetch. -/
def SameMemory (s t : State) : Prop := ∀ x, SameCell x s t

/-- Every cell but possibly the one at `a` reads as before. -/
def SameMemoryExcept (a : Addr) (s t : State) : Prop := ∀ x, x ≠ a → SameCell x s t

/-- The input port has delivered nothing. -/
def SameInput (s t : State) : Prop := t.inputs = s.inputs ∧ t.inputCount = s.inputCount

/-- Nothing has passed through either port. -/
def SamePorts (s t : State) : Prop := t.outputs = s.outputs ∧ SameInput s t

/-- The platform parameters, the array `ROM` and the state of the reset request have not changed. -/
def SamePlatform (s t : State) : Prop :=
  t.memOrg = s.memOrg ∧ t.readOnly = s.readOnly ∧ t.rom = s.rom ∧ t.resetRequest = s.resetRequest
    ∧ t.resetCount = s.resetCount

/-- `pc` has gone on to the next cell, from 0x3FF to 0x000 (R24, R25, D6). -/
def PcAdvances (s t : State) : Prop := t.pc.toNat = (s.pc.toNat + 1) % 1024

/-- `s` becomes `t` by writing `v` to register `a` and going on to the next cell, and by nothing else. -/
def OnlyRegister (a : Reg) (v : Word) (s t : State) : Prop :=
  t.reg a = v ∧ SameRegsExcept a s t ∧ t.sp = s.sp ∧ SameFlags s t ∧ SameMemory s t ∧ SamePorts s t ∧ SamePlatform s t
    ∧ PcAdvances s t

/-- `s` becomes `t` by writing `v` to register `a` and both flags, and by going on to the next cell, and by nothing else. -/
def RegisterAndFlags (a : Reg) (v : Word) (c z : Prop) (s t : State) : Prop :=
  t.reg a = v ∧ (t.c = true ↔ c) ∧ (t.z = true ↔ z) ∧ SameRegsExcept a s t ∧ t.sp = s.sp ∧ SameMemory s t
    ∧ SamePorts s t ∧ SamePlatform s t ∧ PcAdvances s t

/-- `s` becomes `t` by writing `sp` and going on to the next cell, and by nothing else. -/
def OnlyStackPointer (v : Addr) (s t : State) : Prop :=
  t.sp = v ∧ SameRegs s t ∧ SameFlags s t ∧ SameMemory s t ∧ SamePorts s t ∧ SamePlatform s t ∧ PcAdvances s t

/-- `s` becomes `t` by setting `pc`, and by nothing else. -/
def OnlyPc (v : Addr) (s t : State) : Prop :=
  t.pc = v ∧ SameRegs s t ∧ t.sp = s.sp ∧ SameFlags s t ∧ SameMemory s t ∧ SamePorts s t ∧ SamePlatform s t

end Sys2Proof.Machine
end

