-- ==== Sys2Proof/Certificates/Slice0/Obligations.lean ====
section
/-! DEFINITION. The statements for the provers. Each docstring names the rules of `spec/` it formalises; where a clause rests
on a decision the spec marks as its own (D<n>) or on a choice of the model (log n), it says so. Every word of the
encoding rests on the bit numbering D1, and every register field on D2. -/

open Sys2Proof Sys2Proof.Machine Sys2Proof.Asm

/-! Reset, boot and the step -/

/-- R21: after initialization and after CPU reset every general purpose register is 0x0000. -/
def Obligations.GeneralRegistersResetToZero : Prop :=
  (∀ r, State.reset.reg r = 0x0000) ∧ ∀ s r, (State.cpuReset s).reg r = 0x0000

/-- R23, R27, R38, log 8: right after initialization `pc` is 0x000, `sp` is 0x3FF and nothing has been output. That no cell of
either array holds a value then is the model's choice: `State.reset` has no image placed (log 8), and an image is loaded from
outside, before the first step. -/
def Obligations.InitializationState : Prop :=
  State.reset.pc.toNat = 0 ∧ State.reset.sp.toNat = 1023 ∧ State.reset.outputs = []
    ∧ (∀ a, State.reset.fetchWord a = none) ∧ (∀ a, State.reset.mem.read a = none) ∧ ∀ a, State.reset.rom.read a = none

/-- R220, R221, D26: a requested CPU reset puts `pc`, `sp` and the registers into the reset state and leaves every cell and
the output history as they were. That it is a step of its own is the model's choice (log 7). -/
def Obligations.CpuResetKeepsMemoryAndOutputs : Prop :=
  ∀ s, s.resetRequest = true →
    ∃ t, step s = .next t ∧ t.pc.toNat = 0 ∧ t.sp.toNat = 1023 ∧ (∀ r, t.reg r = 0x0000) ∧ SameMemory s t
      ∧ t.outputs = s.outputs ∧ t.memOrg = s.memOrg ∧ t.readOnly = s.readOnly ∧ t.rom = s.rom ∧ t.resetRequest = false

/-- R9, R77: when no reset is requested and the cell at `pc` holds a word, the step is the meaning of the decoded
instruction, with nothing added around it (every meaning sets `pc` itself). -/
def Obligations.StepRunsDecodedInstruction : Prop :=
  ∀ s w, s.resetRequest = false → s.fetchWord s.pc = some w → step s = exec (decode w) s

/-- R49, U10, D15: a fetch of a cell that holds no value stops the model with a fault that names the address. -/
def Obligations.UndefinedFetchFaults : Prop :=
  ∀ s, s.resetRequest = false → s.fetchWord s.pc = none → step s = .fault (.undefinedFetch s.pc)

/-- R42, R49, R223, D15, log 8: an image without two words at one address is what instructions are fetched from, under both
organisations of memory; from initialization with the image present, the first step executes its word at 0x000. -/
def Obligations.ImageIsFetched : Prop :=
  (∀ (s : State) (image : Image) a w, (image.map Prod.fst).Nodup → (a, w) ∈ image →
    (s.withImage image).fetchWord a = some w)
  ∧ ∀ (s : State) (image : Image) w, s = { State.reset with memOrg := s.memOrg } → (image.map Prod.fst).Nodup →
    (0x000, w) ∈ image → step (s.withImage image) = exec (decode w) (s.withImage image)

/-- R23: `pc` is 10 bits wide; the instruction a step executes is the one at `pc`; initialization and CPU reset set `pc` to
0x000; the first instruction executed after either is the word at address 0x000, whatever memory then holds. -/
def Obligations.FirstInstructionStandsAtZero : Prop :=
  (∀ s : State, s.pc.toNat < 1024) ∧ State.reset.pc.toNat = 0 ∧ (∀ s, (State.cpuReset s).pc.toNat = 0)
    ∧ (∀ s t, s.resetRequest = false → step s = .next t →
        ∃ w, s.fetchWord s.pc = some w ∧ exec (decode w) s = .next t)
    ∧ (∀ s w, s = { State.reset with mem := s.mem, rom := s.rom, memOrg := s.memOrg } → s.fetchWord 0x000 = some w →
        step s = exec (decode w) s)
    ∧ ∀ s w, (State.cpuReset s).fetchWord 0x000 = some w → step (State.cpuReset s) = exec (decode w) (State.cpuReset s)

/-- R226, R171, D22: at the end of a run the step changes nothing: the chip keeps executing the self-jump. -/
def Obligations.EndedRunStandsStill : Prop :=
  ∀ s, s.resetRequest = false → runEnded s → step s = .next s

/-! Whole-machine rules -/

/-- R40, R49: the invariant holds right after reset. -/
def Obligations.ResetMeetsInvariant : Prop := State.reset.Inv

/-- R40, R41, R46: every step keeps both arrays of cells in canonical form, within the 1024 addresses. -/
def Obligations.StepKeepsInvariant : Prop := ∀ s t, s.Inv → step s = .next t → t.Inv

/-- R227: nothing the environment can do breaks the invariant: the image, an input value, a reset request. -/
def Obligations.EnvironmentKeepsInvariant : Prop :=
  ∀ (s : State), s.Inv → (∀ image : Image, (s.withImage image).Inv) ∧ (∀ v, (s.presentInput v).Inv) ∧ s.requestReset.Inv

/-- R200, R50, D16, D20, logs 3 and 4: an instruction completes unless it stores to a read-only address, and then the model
refuses it by name; no instruction faults. That a read of an unspecified flag (R33, D12) or of an undefined cell (R49, D15)
completes too is the model's choice: of the stop and the free draw that the spec offers there it takes the draw. -/
def Obligations.OnlyReadOnlyStoresStop : Prop :=
  (∀ i s, (∀ a, storeAddress i s = some a → s.writable a = true) → ∃ t, exec i s = .next t)
    ∧ ∀ i s a, storeAddress i s = some a → s.writable a = false → exec i s = .refused (.storeToReadOnly a)

/-- R42, R50, R55, D14, D16: no step changes the platform parameters, the array `ROM` of the split organisation, or the value
of any read-only cell. -/
def Obligations.StepKeepsReadOnlyMemory : Prop :=
  ∀ s t, step s = .next t →
    t.memOrg = s.memOrg ∧ t.readOnly = s.readOnly ∧ t.rom = s.rom
      ∧ ∀ a, s.writable a = false → t.writable a = false ∧ SameCell a s t

/-- R35, R52, R221, D26: the output history only grows, by one value at a time, and only an `out` makes it grow, by the whole
register it names. -/
def Obligations.OutputHistoryOnlyGrows : Prop :=
  ∀ s t, step s = .next t →
    t.outputs = s.outputs ∨
      ∃ w a, s.fetchWord s.pc = some w ∧ decode w = .outPort a ∧ t.outputs = s.outputs ++ [s.reg a]

/-- R31, D8: an instruction that is not one of the nine flag writers leaves both flags; one of the nine writes both, whatever
they were. -/
def Obligations.NineInstructionsWriteBothFlags : Prop :=
  ∀ i s t, exec i s = .next t →
    (writesFlags i = false → SameFlags s t)
      ∧ (writesFlags i = true → ∀ c z, exec i (s.setFlags c z) = .next t)

/-- R32, R31, D5, D6, D8: `jc` and `jnc` read `c`, `jz` and `jnz` read `z`, and nothing else reads a flag. With other values of
the flags it does not read, an instruction answers the same, stops included, but that one that writes no flag (log 13) passes
the other values on. Where a jump whose flag differs goes rests on D5 and D6 (log 12). `NineInstructionsWriteBothFlags` says
the same of the writers alone. -/
def Obligations.ConditionalJumpsAloneReadFlags : Prop :=
  (∀ i s c z, (readsCarry i → c = s.c) → (readsZero i → z = s.z) →
    exec i (s.setFlags c z) = mapNext (fun t => if writesFlags i then t else t.setFlags c z) (exec i s))
  ∧ ∀ (s : State) (target : Addr),
    (∃ t u, exec (.jc target) (s.setFlags true s.z) = .next t ∧ exec (.jc target) (s.setFlags false s.z) = .next u
      ∧ t.pc = target ∧ u.pc = s.pc + 1)
    ∧ (∃ t u, exec (.jnc target) (s.setFlags true s.z) = .next t ∧ exec (.jnc target) (s.setFlags false s.z) = .next u
      ∧ t.pc = s.pc + 1 ∧ u.pc = target)
    ∧ (∃ t u, exec (.jz target) (s.setFlags s.c true) = .next t ∧ exec (.jz target) (s.setFlags s.c false) = .next u
      ∧ t.pc = target ∧ u.pc = s.pc + 1)
    ∧ (∃ t u, exec (.jnz target) (s.setFlags s.c true) = .next t ∧ exec (.jnz target) (s.setFlags s.c false) = .next u
      ∧ t.pc = s.pc + 1 ∧ u.pc = target)

/-- R22, the writes: an instruction changes no general purpose register but its destination. For all 32 instructions. -/
def Obligations.RegisterFrame : Prop :=
  ∀ i s t, exec i s = .next t → ∀ r, destination i ≠ some r → t.reg r = s.reg r

/-- R46, R47, R48: an instruction changes no cell but the one it stores to, at the address its meaning computes; an
instruction that stores nothing changes no cell. For all 32 instructions. -/
def Obligations.MemoryFrame : Prop :=
  ∀ i s t, exec i s = .next t → ∀ a, storeAddress i s ≠ some a → SameCell a s t

/-- R28, R29, D6: `sp` is decremented by `push` and `call`, incremented by `pop` and `ret`, set by the two `lsp`, all modulo
2^10, and left alone by the others. For all 32 instructions. -/
def Obligations.StackPointerFrame : Prop :=
  ∀ i s t, exec i s = .next t →
    match i with
    | .push _ | .call _ => t.sp.toNat = (s.sp.toNat + 1023) % 1024
    | .pop _ | .ret => t.sp.toNat = (s.sp.toNat + 1) % 1024
    | .lspImm a => t.sp = a
    | .lspReg a => t.sp.toNat = (s.reg a).toNat % 1024
    | _ => t.sp = s.sp

/-- R35, R42, R50, R220, logs 3, 6 and 7: only `in` takes from the input port, only `out` adds to the output history, and no
instruction changes the platform, the array `ROM` or the reset request. For all 32 instructions. The queue of input values
(log 6), the reset request (log 7) and the count of resets (log 3) are how the model holds what the environment does; that no
instruction causes a reset is R220. -/
def Obligations.PortAndPlatformFrame : Prop :=
  ∀ i s t, exec i s = .next t →
    SamePlatform s t ∧ ((∀ a, i ≠ .inPort a) → SameInput s t) ∧ ((∀ a, i ≠ .outPort a) → t.outputs = s.outputs)

/-- R24, R25, R26, R177, D5, D6: the next `pc` is the target of a transfer exactly, else the next address modulo 2^10. For
all 32 instructions. -/
def Obligations.ProgramCounterSequence : Prop :=
  ∀ i s t, exec i s = .next t →
    match transferTarget i s with
    | some target => t.pc = target
    | none => t.pc.toNat = (s.pc.toNat + 1) % 1024

/-! Encoding -/

/-- R62 to R75, R77, D1, D2, D4: decoding the word of an instruction gives the instruction, with every operand at every
value. -/
def Obligations.DecodeOfEncode : Prop := ∀ i, decode (encode i) = i

/-- R72, R75, R77, D1, D2, D3, D4: two words that differ only in bits their instruction ignores are the same instruction, and
encoding what a word decodes to gives the word with its ignored bits at 0. -/
def Obligations.IgnoredBitsDoNotMatter : Prop :=
  (∀ w x : Word, w &&& ~~~ignoredBits (decode w) = x &&& ~~~ignoredBits (decode w) → decode x = decode w)
    ∧ ∀ w, encode (decode w) = w &&& ~~~ignoredBits (decode w)

/-- R63, R64, R73, D1, D2, D3: the words of formats N and R, as numbers, whatever the ignored bits `x` hold. The opcode of
`ret` is inferred (R74, D4). -/
def Obligations.NoArgumentAndRegisterWords : Prop :=
  (∀ x, x < 2048 → decode (BitVec.ofNat 16 (0x0000 + x)) = .nop ∧ decode (BitVec.ofNat 16 (0x7800 + x)) = .ret)
  ∧ ∀ (a : Reg) (x : Nat), x < 256 →
    decode (BitVec.ofNat 16 (0x8000 + 256 * a.toNat + x)) = .push a
    ∧ decode (BitVec.ofNat 16 (0x8800 + 256 * a.toNat + x)) = .pop a
    ∧ decode (BitVec.ofNat 16 (0x3000 + 256 * a.toNat + x)) = .inPort a
    ∧ decode (BitVec.ofNat 16 (0x3800 + 256 * a.toNat + x)) = .outPort a
    ∧ decode (BitVec.ofNat 16 (0xD000 + 256 * a.toNat + x)) = .clr a
    ∧ decode (BitVec.ofNat 16 (0xE000 + 256 * a.toNat + x)) = .lspReg a
    ∧ decode (BitVec.ofNat 16 (0xE800 + 256 * a.toNat + x)) = .rsp a
    ∧ decode (BitVec.ofNat 16 (0xB000 + 256 * a.toNat + x)) = .not a

/-- R65, R73, D1, D2, D3: the words of format RR, as numbers, whatever the ignored bits `x` hold. -/
def Obligations.RegisterRegisterWords : Prop :=
  ∀ (a b : Reg) (x : Nat), x < 32 →
    decode (BitVec.ofNat 16 (0x0800 + 256 * a.toNat + 32 * b.toNat + x)) = .mv a b
    ∧ decode (BitVec.ofNat 16 (0x9000 + 256 * a.toNat + 32 * b.toNat + x)) = .add a b
    ∧ decode (BitVec.ofNat 16 (0x9800 + 256 * a.toNat + 32 * b.toNat + x)) = .sub a b
    ∧ decode (BitVec.ofNat 16 (0x4000 + 256 * a.toNat + 32 * b.toNat + x)) = .cmp a b
    ∧ decode (BitVec.ofNat 16 (0xA000 + 256 * a.toNat + 32 * b.toNat + x)) = .and a b
    ∧ decode (BitVec.ofNat 16 (0xA800 + 256 * a.toNat + 32 * b.toNat + x)) = .or a b
    ∧ decode (BitVec.ofNat 16 (0xB800 + 256 * a.toNat + 32 * b.toNat + x)) = .xor a b
    ∧ decode (BitVec.ofNat 16 (0xC000 + 256 * a.toNat + 32 * b.toNat + x)) = .shr a b
    ∧ decode (BitVec.ofNat 16 (0xC800 + 256 * a.toNat + 32 * b.toNat + x)) = .shl a b

/-- R66, R67, R68, R71, R73, D1, D2: the words of formats RI, RSO and RRO, as numbers; an offset is its two's complement
pattern. -/
def Obligations.ImmediateAndOffsetWords : Prop :=
  (∀ (a : Reg) (imm : Byte),
    decode (BitVec.ofNat 16 (0x1000 + 256 * a.toNat + imm.toNat)) = .mvh a imm
    ∧ decode (BitVec.ofNat 16 (0x1800 + 256 * a.toNat + imm.toNat)) = .mvl a imm)
  ∧ (∀ (a : Reg) (off : Int), -128 ≤ off → off ≤ 127 →
    decode (BitVec.ofNat 16 (0x2000 + 256 * a.toNat + (off % 256).toNat)) = .ldStack a (BitVec.ofInt 8 off)
    ∧ decode (BitVec.ofNat 16 (0x2800 + 256 * a.toNat + (off % 256).toNat)) = .stStack a (BitVec.ofInt 8 off))
  ∧ ∀ (a b : Reg) (off : Int), -16 ≤ off → off ≤ 15 →
    decode (BitVec.ofNat 16 (0xF000 + 256 * a.toNat + 32 * b.toNat + (off % 32).toNat)) = .ldReg a b (BitVec.ofInt 5 off)
    ∧ decode (BitVec.ofNat 16 (0xF800 + 256 * a.toNat + 32 * b.toNat + (off % 32).toNat)) = .stReg a b (BitVec.ofInt 5 off)

/-- R69, R73, D1, D3: the words of format A, as numbers, whatever the ignored bit `x` holds. -/
def Obligations.AddressWords : Prop :=
  ∀ (target : Addr) (x : Nat), x < 2 →
    decode (BitVec.ofNat 16 (0x7000 + 2 * target.toNat + x)) = .call target
    ∧ decode (BitVec.ofNat 16 (0x4800 + 2 * target.toNat + x)) = .jmp target
    ∧ decode (BitVec.ofNat 16 (0x5000 + 2 * target.toNat + x)) = .jc target
    ∧ decode (BitVec.ofNat 16 (0x5800 + 2 * target.toNat + x)) = .jnc target
    ∧ decode (BitVec.ofNat 16 (0x6000 + 2 * target.toNat + x)) = .jz target
    ∧ decode (BitVec.ofNat 16 (0x6800 + 2 * target.toNat + x)) = .jnz target
    ∧ decode (BitVec.ofNat 16 (0xD800 + 2 * target.toNat + x)) = .lspImm target

/-- R72, R73, R75, D1, D2, D3, D4: words of the decode vectors V-D. -/
def Obligations.SampleWordsDecode : Prop :=
  decode 0x07FF = .nop ∧ decode 0x7FFF = .ret ∧ decode 0x80FF = .push 0 ∧ decode 0xB001 = .not 0
    ∧ decode 0x081F = .mv 0 0 ∧ decode 0x4807 = .jmp 0x003 ∧ decode 0xE700 = .lspReg 7 ∧ decode 0xDFFE = .lspImm 0x3FF
    ∧ decode 0x2D01 = .stStack 5 1 ∧ decode 0xF030 = .ldReg 0 1 (-16) ∧ decode 0xFFFF = .stReg 7 7 (-1)

/-! No-argument and register operations -/

/-- R90, R25, D6: `nop` changes only `pc`, which goes on by one, from 0x3FF to 0x000. -/
def Obligations.NopChangesOnlyPc : Prop :=
  ∀ s, ∃ t, exec .nop s = .next t ∧ OnlyPc (BitVec.ofNat 10 ((s.pc.toNat + 1) % 1024)) s t

/-- R91, D6, D7: `ret` takes `pc` from bits 9:0 of the cell at `sp + 1`, whatever wrote it, and increments `sp`. -/
def Obligations.RetTakesPcFromStack : Prop :=
  ∀ s top, top.toNat = (s.sp.toNat + 1) % 1024 →
    ∃ t, exec .ret s = .next t ∧ t.pc.toNat = (s.memRead top).toNat % 1024 ∧ t.sp = top ∧ SameRegs s t ∧ SameFlags s t
      ∧ SameMemory s t ∧ SamePorts s t ∧ SamePlatform s t

/-- R100, R27, R50, D6, D16: `push` on a writable cell writes the register to the cell at the old `sp` and decrements `sp`;
the value then lies at `sp + 1`. -/
def Obligations.PushWritesAtOldStackPointer : Prop :=
  ∀ s a, s.writable s.sp = true →
    ∃ t, exec (.push a) s = .next t ∧ t.memRead s.sp = s.reg a ∧ t.sp.toNat = (s.sp.toNat + 1023) % 1024
      ∧ t.memRead (t.sp + 1) = s.reg a ∧ SameMemoryExcept s.sp s t ∧ SameRegs s t ∧ SameFlags s t ∧ SamePorts s t
      ∧ SamePlatform s t ∧ PcAdvances s t

/-- R101, D6: `pop` loads the cell at `sp + 1` and increments `sp`; neither flag nor memory changes. -/
def Obligations.PopLoadsAboveStackPointer : Prop :=
  ∀ s a top, top.toNat = (s.sp.toNat + 1) % 1024 →
    ∃ t, exec (.pop a) s = .next t ∧ t.reg a = s.memRead top ∧ t.sp = top ∧ SameRegsExcept a s t ∧ SameFlags s t
      ∧ SameMemory s t ∧ SamePorts s t ∧ SamePlatform s t ∧ PcAdvances s t

/-- R102, R35, D6, D19: `in` always completes and changes its register only; a presented value is the one it delivers, and is
consumed. With no value presented the register holds a free value, of which nothing is said (log 6). -/
def Obligations.InDeliversPresentedValue : Prop :=
  ∀ s a, ∃ t, exec (.inPort a) s = .next t ∧ (∀ v rest, s.inputs = v :: rest → t.reg a = v ∧ t.inputs = rest)
    ∧ (s.inputs = [] → t.inputs = []) ∧ SameRegsExcept a s t ∧ t.sp = s.sp ∧ SameFlags s t ∧ SameMemory s t
    ∧ t.outputs = s.outputs ∧ SamePlatform s t ∧ PcAdvances s t

/-- R103, R35, D6, D19: `out` adds the whole register to the output history, after the values output before, and changes
nothing else but `pc`. -/
def Obligations.OutAppendsWholeRegister : Prop :=
  ∀ s a, ∃ t, exec (.outPort a) s = .next t ∧ t.outputs = s.outputs ++ [s.reg a] ∧ SameRegs s t ∧ t.sp = s.sp
    ∧ SameFlags s t ∧ SameMemory s t ∧ SameInput s t ∧ SamePlatform s t ∧ PcAdvances s t

/-- R104, D1, D2, D3, D6: the words of `clr rA`, and that it sets the register to 0x0000 and no flag. -/
def Obligations.ClrClearsRegister : Prop :=
  ∀ a : Reg,
    (∀ x, x < 256 → decode (BitVec.ofNat 16 (0xD000 + 256 * a.toNat + x)) = .clr a)
    ∧ encode (.clr a) = BitVec.ofNat 16 (0xD000 + 256 * a.toNat)
    ∧ ∀ s, ∃ t, exec (.clr a) s = .next t ∧ OnlyRegister a 0x0000 s t

/-- R105, D1, D2, D3, D6: the words of `lsp rA`, and that it sets `sp` to the bottom 10 bits of the register. -/
def Obligations.LspRegisterSetsStackPointer : Prop :=
  ∀ a : Reg,
    (∀ x, x < 256 → decode (BitVec.ofNat 16 (0xE000 + 256 * a.toNat + x)) = .lspReg a)
    ∧ encode (.lspReg a) = BitVec.ofNat 16 (0xE000 + 256 * a.toNat)
    ∧ ∀ s, ∃ t, exec (.lspReg a) s = .next t ∧ OnlyStackPointer (BitVec.ofNat 10 ((s.reg a).toNat % 1024)) s t

/-- R106, D6, D7: `rsp` copies `sp` into the register with bits 15:10 zero. -/
def Obligations.RspZeroExtendsStackPointer : Prop :=
  ∀ s a, ∃ t, exec (.rsp a) s = .next t ∧ OnlyRegister a (BitVec.ofNat 16 s.sp.toNat) s t

/-- R107, R31, D6, D8: `not` inverts the 16 bits, sets `z` exactly when the register was 0xFFFF, and clears `c`. -/
def Obligations.NotInvertsEveryBit : Prop :=
  ∀ s a, ∃ t, exec (.not a) s = .next t ∧ (∀ k, k < 16 → (t.reg a).getLsbD k = !(s.reg a).getLsbD k)
    ∧ RegisterAndFlags a (t.reg a) False (s.reg a = 0xFFFF) s t

/-! Register-register and register-immediate operations -/

/-- R120, D1, D2, D3, D6: the words of `mv rA, rB`, and that it copies Reg B to Reg A and nothing else. -/
def Obligations.MvCopiesRegister : Prop :=
  ∀ a b : Reg,
    (∀ x, x < 32 → decode (BitVec.ofNat 16 (0x0800 + 256 * a.toNat + 32 * b.toNat + x)) = .mv a b)
    ∧ encode (.mv a b) = BitVec.ofNat 16 (0x0800 + 256 * a.toNat + 32 * b.toNat)
    ∧ ∀ s, ∃ t, exec (.mv a b) s = .next t ∧ OnlyRegister a (s.reg b) s t

/-- R121, R31, D6, D8, D9: `add` stores the sum modulo 2^16; `c` is the carry out of bit 15, `z` tells that the result is
zero. -/
def Obligations.AddSumAndCarry : Prop :=
  ∀ s a b, ∃ t, exec (.add a b) s = .next t
    ∧ RegisterAndFlags a (BitVec.ofNat 16 (((s.reg a).toNat + (s.reg b).toNat) % 65536))
        (65536 ≤ (s.reg a).toNat + (s.reg b).toNat) (((s.reg a).toNat + (s.reg b).toNat) % 65536 = 0) s t

/-- R122, R31, D6, D8, D9: `sub` stores A minus B modulo 2^16; `c` is the borrow, `z` tells that the registers were equal. -/
def Obligations.SubDifferenceAndBorrow : Prop :=
  ∀ s a b, ∃ t, exec (.sub a b) s = .next t
    ∧ RegisterAndFlags a (BitVec.ofInt 16 ((s.reg a).toNat - (s.reg b).toNat))
        ((s.reg a).toNat < (s.reg b).toNat) (s.reg a = s.reg b) s t

/-- R123, D6, D8, D10: `cmp` writes only the flags: `z` when the registers are equal, `c` when B is greater than A as two's
complement; never both. -/
def Obligations.CmpSignedOrder : Prop :=
  ∀ s a b, ∃ t, exec (.cmp a b) s = .next t ∧ (t.z = true ↔ s.reg a = s.reg b)
    ∧ (t.c = true ↔ (s.reg b).toInt > (s.reg a).toInt) ∧ ¬(t.c = true ∧ t.z = true) ∧ SameRegs s t ∧ t.sp = s.sp
    ∧ SameMemory s t ∧ SamePorts s t ∧ SamePlatform s t ∧ PcAdvances s t

/-- R124, R125, R126, R31, D6, D8: `and`, `or` and `xor` bit by bit; `z` tells that the result is zero, `c` is cleared. -/
def Obligations.LogicBitByBit : Prop :=
  ∀ s a b,
    (∃ t, exec (.and a b) s = .next t
      ∧ (∀ k, k < 16 → ((t.reg a).getLsbD k = true ↔ (s.reg a).getLsbD k = true ∧ (s.reg b).getLsbD k = true))
      ∧ RegisterAndFlags a (t.reg a) False (t.reg a = 0x0000) s t)
    ∧ (∃ t, exec (.or a b) s = .next t
      ∧ (∀ k, k < 16 → ((t.reg a).getLsbD k = true ↔ (s.reg a).getLsbD k = true ∨ (s.reg b).getLsbD k = true))
      ∧ RegisterAndFlags a (t.reg a) False (t.reg a = 0x0000) s t)
    ∧ ∃ t, exec (.xor a b) s = .next t
      ∧ (∀ k, k < 16 → ((t.reg a).getLsbD k = true ↔ (s.reg a).getLsbD k ≠ (s.reg b).getLsbD k))
      ∧ RegisterAndFlags a (t.reg a) False (s.reg a = s.reg b) s t

/-- R127, R128, R31, D6, D8, D11: `shr` divides by and `shl` multiplies with 2^n modulo 2^16, `n` the whole of Reg B, zero
from n = 16 on; `z` tells that the result is zero, `c` is cleared. -/
def Obligations.ShiftsByWholeRegister : Prop :=
  ∀ s a b,
    (∃ t, exec (.shr a b) s = .next t
      ∧ (t.reg a).toNat = (if (s.reg b).toNat < 16 then (s.reg a).toNat / 2 ^ (s.reg b).toNat else 0)
      ∧ RegisterAndFlags a (t.reg a) False (t.reg a = 0x0000) s t)
    ∧ ∃ t, exec (.shl a b) s = .next t
      ∧ (t.reg a).toNat = (if (s.reg b).toNat < 16 then (s.reg a).toNat * 2 ^ (s.reg b).toNat % 65536 else 0)
      ∧ RegisterAndFlags a (t.reg a) False (t.reg a = 0x0000) s t

/-- R140, R141, D1, D2, D6: the words of `mvh rA, imm8` and `mvl rA, imm8`, and that each replaces its byte of the register,
keeps the other byte and changes nothing else. -/
def Obligations.MvhAndMvlReplaceOneByte : Prop :=
  ∀ (a : Reg) (imm : Byte),
    (decode (BitVec.ofNat 16 (0x1000 + 256 * a.toNat + imm.toNat)) = .mvh a imm
      ∧ encode (.mvh a imm) = BitVec.ofNat 16 (0x1000 + 256 * a.toNat + imm.toNat)
      ∧ ∀ s, ∃ t, exec (.mvh a imm) s = .next t
        ∧ OnlyRegister a (BitVec.ofNat 16 (256 * imm.toNat + (s.reg a).toNat % 256)) s t)
    ∧ decode (BitVec.ofNat 16 (0x1800 + 256 * a.toNat + imm.toNat)) = .mvl a imm
      ∧ encode (.mvl a imm) = BitVec.ofNat 16 (0x1800 + 256 * a.toNat + imm.toNat)
      ∧ ∀ s, ∃ t, exec (.mvl a imm) s = .next t
        ∧ OnlyRegister a (BitVec.ofNat 16 ((s.reg a).toNat / 256 * 256 + imm.toNat)) s t

/-! The stack pointer -/

/-- R27: `sp` is 10 bits wide and 0x3FF after initialization and after CPU reset; above 0x000 a `push` and a `call` write one
cell, the one at `sp`, and decrement `sp` by one, so that the value pushed lies at `sp + 1`; below 0x3FF a `pop` and a `ret`
increment `sp` by one. What happens at the two ends is no part of R27. -/
def Obligations.StackPointerHoldsNextFreeCell : Prop :=
  (∀ s : State, s.sp.toNat < 1024) ∧ State.reset.sp.toNat = 1023 ∧ (∀ s, (State.cpuReset s).sp.toNat = 1023)
    ∧ (∀ s t a, 0 < s.sp.toNat → exec (.push a) s = .next t →
        t.sp.toNat + 1 = s.sp.toNat ∧ t.memRead (t.sp + 1) = s.reg a ∧ SameMemoryExcept s.sp s t)
    ∧ (∀ s t target, 0 < s.sp.toNat → s.pc.toNat < 1023 → exec (.call target) s = .next t →
        t.sp.toNat + 1 = s.sp.toNat ∧ (t.memRead (t.sp + 1)).toNat % 1024 = s.pc.toNat + 1 ∧ SameMemoryExcept s.sp s t)
    ∧ ∀ s t i, s.sp.toNat < 1023 → ((∃ a, i = .pop a) ∨ i = .ret) → exec i s = .next t →
        t.sp.toNat = s.sp.toNat + 1

/-! Loads and stores -/

/-- R150, R151, R153, D6, D23: each form of `ld` loads the cell at base plus signed offset, modulo 2^10; of the base register
only the bottom 10 bits count. -/
def Obligations.LoadsReadBasePlusOffset : Prop :=
  (∀ s a b off ea, (ea.toNat : Int) = ((s.reg b).toNat % 1024 + off.toInt) % 1024 →
    ∃ t, exec (.ldReg a b off) s = .next t ∧ OnlyRegister a (s.memRead ea) s t)
  ∧ ∀ s a off ea, (ea.toNat : Int) = (s.sp.toNat + off.toInt) % 1024 →
    ∃ t, exec (.ldStack a off) s = .next t ∧ OnlyRegister a (s.memRead ea) s t

/-- R150, R152, R154, R50, D6, D16: each form of `st`, on a writable cell, stores the register at base plus signed offset,
modulo 2^10, and changes no other cell, register or flag. -/
def Obligations.StoresWriteBasePlusOffset : Prop :=
  (∀ s a b off ea, (ea.toNat : Int) = ((s.reg b).toNat % 1024 + off.toInt) % 1024 → s.writable ea = true →
    ∃ t, exec (.stReg a b off) s = .next t ∧ t.memRead ea = s.reg a ∧ SameMemoryExcept ea s t ∧ SameRegs s t
      ∧ t.sp = s.sp ∧ SameFlags s t ∧ SamePorts s t ∧ SamePlatform s t ∧ PcAdvances s t)
  ∧ ∀ s a off ea, (ea.toNat : Int) = (s.sp.toNat + off.toInt) % 1024 → s.writable ea = true →
    ∃ t, exec (.stStack a off) s = .next t ∧ t.memRead ea = s.reg a ∧ SameMemoryExcept ea s t ∧ SameRegs s t
      ∧ t.sp = s.sp ∧ SameFlags s t ∧ SamePorts s t ∧ SamePlatform s t ∧ PcAdvances s t

/-! Address operations -/

/-- R170, R50, D6, D7, D16: `call`, on a writable stack cell, writes `pc + 1` with bits 15:10 zero at the old `sp`,
decrements `sp` and sets `pc` to the address. -/
def Obligations.CallPushesReturnAddress : Prop :=
  ∀ s target, s.writable s.sp = true →
    ∃ t, exec (.call target) s = .next t ∧ (t.memRead s.sp).toNat = (s.pc.toNat + 1) % 1024
      ∧ t.sp.toNat = (s.sp.toNat + 1023) % 1024 ∧ t.pc = target ∧ SameMemoryExcept s.sp s t ∧ SameRegs s t
      ∧ SameFlags s t ∧ SamePorts s t ∧ SamePlatform s t

/-- R171 to R175, D5, D6: `jmp` sets `pc` to the address, with no increment after it; a conditional jump does so when its
condition holds, else goes on to the next cell modulo 2^10. None of the five changes anything else. -/
def Obligations.JumpsSetOnlyPc : Prop :=
  ∀ s target,
    (∃ t, exec (.jmp target) s = .next t ∧ OnlyPc target s t)
    ∧ (∃ t, exec (.jc target) s = .next t
      ∧ OnlyPc (if s.c = true then target else BitVec.ofNat 10 ((s.pc.toNat + 1) % 1024)) s t)
    ∧ (∃ t, exec (.jnc target) s = .next t
      ∧ OnlyPc (if s.c = false then target else BitVec.ofNat 10 ((s.pc.toNat + 1) % 1024)) s t)
    ∧ (∃ t, exec (.jz target) s = .next t
      ∧ OnlyPc (if s.z = true then target else BitVec.ofNat 10 ((s.pc.toNat + 1) % 1024)) s t)
    ∧ ∃ t, exec (.jnz target) s = .next t
      ∧ OnlyPc (if s.z = false then target else BitVec.ofNat 10 ((s.pc.toNat + 1) % 1024)) s t

/-- R176, D1, D3, D6: the words of `lsp addr`, and that it sets `sp` to the address and is not a transfer. -/
def Obligations.LspImmediateSetsStackPointer : Prop :=
  ∀ target : Addr,
    (∀ x, x < 2 → decode (BitVec.ofNat 16 (0xD800 + 2 * target.toNat + x)) = .lspImm target)
    ∧ encode (.lspImm target) = BitVec.ofNat 16 (0xD800 + 2 * target.toNat)
    ∧ ∀ s, ∃ t, exec (.lspImm target) s = .next t ∧ OnlyStackPointer target s t

/-! Several instructions together -/

/-- R91, R170, D6, D7: a `ret` executed with the `sp` and the stack cell that a `call` left resumes at the instruction after
the `call`, with `sp` as it was before the `call`. -/
def Obligations.RetResumesAfterCall : Prop :=
  ∀ s target t, exec (.call target) s = .next t →
    ∀ u : State, u.sp = t.sp → u.memRead s.sp = t.memRead s.sp →
      ∃ v, exec .ret u = .next v ∧ v.pc = s.pc + 1 ∧ v.sp = s.sp ∧ SameRegs u v ∧ SameFlags u v ∧ SameMemory u v

/-- R101, D6: a `push` immediately followed by a `pop` copies one register to the other and restores `sp`. -/
def Obligations.PopUndoesPush : Prop :=
  ∀ s a b t, exec (.push a) s = .next t →
    ∃ u, exec (.pop b) t = .next u ∧ u.reg b = s.reg a ∧ u.sp = s.sp ∧ SameRegsExcept b s u ∧ SameFlags s u

/-- R57, R27, D6: up to 1024 pushes on writable memory leave the values at `sp`, `sp - 1` and so on downwards, the oldest
first, and `sp` below them. -/
def Obligations.PushesLieDownwards : Prop :=
  ∀ (rs : List Reg) (s : State), rs.length ≤ 1024 → (∀ a, s.writable a = true) →
    ∃ t, execAll (rs.map .push) s = .next t ∧ t.sp = s.sp - BitVec.ofNat 10 rs.length ∧ SameRegs s t ∧ SameFlags s t
      ∧ ∀ k (h : k < rs.length), t.memRead (s.sp - BitVec.ofNat 10 k) = s.reg rs[k]

/-- R52, R44, R224, D18, V-LS31: a load from the address just stored to gives the value stored, bit for bit, under both
organisations of memory, in both addressing modes. -/
def Obligations.LoadAfterStore : Prop :=
  (∀ s a b d off t, exec (.stReg a b off) s = .next t →
    ∃ u, exec (.ldReg d b off) t = .next u ∧ u.reg d = s.reg a)
  ∧ ∀ s a d off t, exec (.stStack a off) s = .next t →
    ∃ u, exec (.ldStack d off) t = .next u ∧ u.reg d = s.reg a

/-- R55, R42, D17: under `unified` the word a store leaves in a cell is what the very next fetch of that cell reads; under
`split` no store changes what is fetched. -/
def Obligations.FetchSeesStore : Prop :=
  ∀ i s t a, exec i s = .next t → storeAddress i s = some a →
    (s.memOrg = .unified → t.fetchWord a = some (t.memRead a))
      ∧ (s.memOrg = .split → ∀ x, t.fetchWord x = s.fetchWord x)

/-! The assembler -/

/-- R193, D6, D25: the two instructions of `.ldtag rA, tag` leave the tag's address, zero-extended, in the register, whatever it
held, move `pc` on by two cells, and change nothing else. -/
def Obligations.LdtagLoadsAddress : Prop :=
  ∀ s a target, ∃ t, execAll (ldtagInstrs a target) s = .next t ∧ (t.reg a).toNat = target.toNat ∧ SameRegsExcept a s t
    ∧ t.sp = s.sp ∧ SameFlags s t ∧ SameMemory s t ∧ SamePorts s t ∧ SamePlatform s t
    ∧ t.pc.toNat = (s.pc.toNat + 2) % 1024

/-- R71, R81, R82, R83: every instruction has a spelling, and the assembler reads it back as that instruction: the operand
shape tells the two forms of `ld`, `st` and `lsp` apart. -/
def Obligations.SpellingAssemblesBack : Prop :=
  ∀ tags i, assembleInstr tags (spell i).1 (spell i).2 = .ok i

/-- R190, U17, D25: the addresses of an assembled image rise strictly, so no address holds two words, whatever the packing of
strings. -/
def Obligations.AssembledAddressesRise : Prop :=
  ∀ pack lines image, assemble pack lines = .ok image → image.Pairwise (fun p q => p.1.toNat < q.1.toNat)

/-- R71, R80, D25: the assembler rejects a byte immediate, an offset or an address out of the range of its field. -/
def Obligations.OutOfRangeOperandsRejected : Prop :=
  ∀ tags a b (n : Int), a < 8 → b < 8 →
    (n < 0 ∨ 255 < n → assembleInstr tags .mvh [.reg a, .num n] = .error .range
      ∧ assembleInstr tags .mvl [.reg a, .num n] = .error .range)
    ∧ (n < -16 ∨ 15 < n → assembleInstr tags .ld [.reg a, .atReg b n] = .error .range
      ∧ assembleInstr tags .st [.reg a, .atReg b n] = .error .range)
    ∧ (n < -128 ∨ 127 < n → assembleInstr tags .ld [.reg a, .atSp n] = .error .range
      ∧ assembleInstr tags .st [.reg a, .atSp n] = .error .range)
    ∧ (n < 0 ∨ 1023 < n → ∀ m ∈ [Mnemonic.call, .jmp, .jc, .jnc, .jz, .jnz, .lsp],
        assembleInstr tags m [.num n] = .error .range)
end

