-- ==== Sys2Proof/Laws/Bits.lean ====
section
/-! SUPPORT. The numbers behind the concatenation of bit strings (R7). -/

namespace Sys2Proof

/-- The value of a concatenation: the left part stands above the right one. -/
theorem append_toNat {m n : Nat} (x : BitVec m) (y : BitVec n) : (x ++ y).toNat = x.toNat * 2 ^ n + y.toNat := by
  rw [BitVec.toNat_append, ← Nat.shiftLeft_add_eq_or_of_lt y.isLt, Nat.shiftLeft_eq]

end Sys2Proof
end

