-- ==== Sys2Proof/Laws/Decode.lean ====
section
/-! SUPPORT. What each field of the decoder reads from a word of each format. -/

namespace Sys2Proof

/-! The value of a word of each format, as R77 builds it. -/

theorem formatN_toNat (op : Opcode) : (formatN op).toNat = op.toNat * 2048 := by
  have h : (formatN op).toNat = op.toNat * 2 ^ 11 + (0#11).toNat := append_toNat op 0#11
  simpa using h

theorem formatR_toNat (op : Opcode) (a : Reg) : (formatR op a).toNat = op.toNat * 2048 + a.toNat * 256 := by
  have h : (formatR op a).toNat = (op ++ a).toNat * 2 ^ 8 + (0#8).toNat := append_toNat (op ++ a) 0#8
  rw [h, append_toNat op a]
  simp
  omega

theorem formatRR_toNat (op : Opcode) (a b : Reg) :
    (formatRR op a b).toNat = op.toNat * 2048 + a.toNat * 256 + b.toNat * 32 := by
  have h : (formatRR op a b).toNat = (op ++ a ++ b).toNat * 2 ^ 5 + (0#5).toNat := append_toNat (op ++ a ++ b) 0#5
  rw [h, append_toNat (op ++ a) b, append_toNat op a]
  simp
  omega

theorem formatRI_toNat (op : Opcode) (a : Reg) (imm : Byte) :
    (formatRI op a imm).toNat = op.toNat * 2048 + a.toNat * 256 + imm.toNat := by
  have h : (formatRI op a imm).toNat = (op ++ a).toNat * 2 ^ 8 + imm.toNat := append_toNat (op ++ a) imm
  rw [h, append_toNat op a]
  omega

theorem formatRRO_toNat (op : Opcode) (a b : Reg) (off : Off5) :
    (formatRRO op a b off).toNat = op.toNat * 2048 + a.toNat * 256 + b.toNat * 32 + off.toNat := by
  have h : (formatRRO op a b off).toNat = (op ++ a ++ b).toNat * 2 ^ 5 + off.toNat := append_toNat (op ++ a ++ b) off
  rw [h, append_toNat (op ++ a) b, append_toNat op a]
  omega

theorem formatA_toNat (op : Opcode) (t : Addr) : (formatA op t).toNat = op.toNat * 2048 + t.toNat * 2 := by
  have h : (formatA op t).toNat = (op ++ t).toNat * 2 ^ 1 + (0#1).toNat := append_toNat (op ++ t) 0#1
  rw [h, append_toNat op t]
  simp
  omega

/-! The fields of a word, as numbers (R77). -/

theorem opcodeOf_toNat (w : Word) : (opcodeOf w).toNat = w.toNat / 2048 := by
  have := w.isLt
  simp [opcodeOf, BitVec.extractLsb'_toNat, Nat.shiftRight_eq_div_pow]
  omega

theorem regA_toNat (w : Word) : (regA w).toNat = w.toNat / 256 % 8 := by
  simp [regA, BitVec.extractLsb'_toNat, Nat.shiftRight_eq_div_pow]

theorem regB_toNat (w : Word) : (regB w).toNat = w.toNat / 32 % 8 := by
  simp [regB, BitVec.extractLsb'_toNat, Nat.shiftRight_eq_div_pow]

theorem lowByteOf_toNat (w : Word) : (lowByteOf w).toNat = w.toNat % 256 := by
  simp [lowByteOf, BitVec.extractLsb'_toNat]

theorem off5Of_toNat (w : Word) : (off5Of w).toNat = w.toNat % 32 := by
  simp [off5Of, BitVec.extractLsb'_toNat]

theorem addrOf_toNat (w : Word) : (addrOf w).toNat = w.toNat / 2 % 1024 := by
  simp [addrOf, BitVec.extractLsb'_toNat, Nat.shiftRight_eq_div_pow]

/-! The opcode map (R73): what a word decodes to, from its value divided by 2^11. -/

theorem decode_nop (w : Word) (h : w.toNat / 2048 = 0) : decode w = .nop := by
  simp only [decode, opcodeOf_toNat, h]

theorem decode_mv (w : Word) (h : w.toNat / 2048 = 1) : decode w = .mv (regA w) (regB w) := by
  simp only [decode, opcodeOf_toNat, h]

theorem decode_mvh (w : Word) (h : w.toNat / 2048 = 2) : decode w = .mvh (regA w) (lowByteOf w) := by
  simp only [decode, opcodeOf_toNat, h]

theorem decode_mvl (w : Word) (h : w.toNat / 2048 = 3) : decode w = .mvl (regA w) (lowByteOf w) := by
  simp only [decode, opcodeOf_toNat, h]

theorem decode_ldStack (w : Word) (h : w.toNat / 2048 = 4) : decode w = .ldStack (regA w) (lowByteOf w) := by
  simp only [decode, opcodeOf_toNat, h]

theorem decode_stStack (w : Word) (h : w.toNat / 2048 = 5) : decode w = .stStack (regA w) (lowByteOf w) := by
  simp only [decode, opcodeOf_toNat, h]

theorem decode_inPort (w : Word) (h : w.toNat / 2048 = 6) : decode w = .inPort (regA w) := by
  simp only [decode, opcodeOf_toNat, h]

theorem decode_outPort (w : Word) (h : w.toNat / 2048 = 7) : decode w = .outPort (regA w) := by
  simp only [decode, opcodeOf_toNat, h]

theorem decode_cmp (w : Word) (h : w.toNat / 2048 = 8) : decode w = .cmp (regA w) (regB w) := by
  simp only [decode, opcodeOf_toNat, h]

theorem decode_jmp (w : Word) (h : w.toNat / 2048 = 9) : decode w = .jmp (addrOf w) := by
  simp only [decode, opcodeOf_toNat, h]

theorem decode_jc (w : Word) (h : w.toNat / 2048 = 10) : decode w = .jc (addrOf w) := by
  simp only [decode, opcodeOf_toNat, h]

theorem decode_jnc (w : Word) (h : w.toNat / 2048 = 11) : decode w = .jnc (addrOf w) := by
  simp only [decode, opcodeOf_toNat, h]

theorem decode_jz (w : Word) (h : w.toNat / 2048 = 12) : decode w = .jz (addrOf w) := by
  simp only [decode, opcodeOf_toNat, h]

theorem decode_jnz (w : Word) (h : w.toNat / 2048 = 13) : decode w = .jnz (addrOf w) := by
  simp only [decode, opcodeOf_toNat, h]

theorem decode_call (w : Word) (h : w.toNat / 2048 = 14) : decode w = .call (addrOf w) := by
  simp only [decode, opcodeOf_toNat, h]

theorem decode_ret (w : Word) (h : w.toNat / 2048 = 15) : decode w = .ret := by
  simp only [decode, opcodeOf_toNat, h]

theorem decode_push (w : Word) (h : w.toNat / 2048 = 16) : decode w = .push (regA w) := by
  simp only [decode, opcodeOf_toNat, h]

theorem decode_pop (w : Word) (h : w.toNat / 2048 = 17) : decode w = .pop (regA w) := by
  simp only [decode, opcodeOf_toNat, h]

theorem decode_add (w : Word) (h : w.toNat / 2048 = 18) : decode w = .add (regA w) (regB w) := by
  simp only [decode, opcodeOf_toNat, h]

theorem decode_sub (w : Word) (h : w.toNat / 2048 = 19) : decode w = .sub (regA w) (regB w) := by
  simp only [decode, opcodeOf_toNat, h]

theorem decode_and (w : Word) (h : w.toNat / 2048 = 20) : decode w = .and (regA w) (regB w) := by
  simp only [decode, opcodeOf_toNat, h]

theorem decode_or (w : Word) (h : w.toNat / 2048 = 21) : decode w = .or (regA w) (regB w) := by
  simp only [decode, opcodeOf_toNat, h]

theorem decode_not (w : Word) (h : w.toNat / 2048 = 22) : decode w = .not (regA w) := by
  simp only [decode, opcodeOf_toNat, h]

theorem decode_xor (w : Word) (h : w.toNat / 2048 = 23) : decode w = .xor (regA w) (regB w) := by
  simp only [decode, opcodeOf_toNat, h]

theorem decode_shr (w : Word) (h : w.toNat / 2048 = 24) : decode w = .shr (regA w) (regB w) := by
  simp only [decode, opcodeOf_toNat, h]

theorem decode_shl (w : Word) (h : w.toNat / 2048 = 25) : decode w = .shl (regA w) (regB w) := by
  simp only [decode, opcodeOf_toNat, h]

theorem decode_clr (w : Word) (h : w.toNat / 2048 = 26) : decode w = .clr (regA w) := by
  simp only [decode, opcodeOf_toNat, h]

theorem decode_lspImm (w : Word) (h : w.toNat / 2048 = 27) : decode w = .lspImm (addrOf w) := by
  simp only [decode, opcodeOf_toNat, h]

theorem decode_lspReg (w : Word) (h : w.toNat / 2048 = 28) : decode w = .lspReg (regA w) := by
  simp only [decode, opcodeOf_toNat, h]

theorem decode_rsp (w : Word) (h : w.toNat / 2048 = 29) : decode w = .rsp (regA w) := by
  simp only [decode, opcodeOf_toNat, h]

theorem decode_ldReg (w : Word) (h : w.toNat / 2048 = 30) : decode w = .ldReg (regA w) (regB w) (off5Of w) := by
  simp only [decode, opcodeOf_toNat, h]

theorem decode_stReg (w : Word) (h : w.toNat / 2048 = 31) : decode w = .stReg (regA w) (regB w) (off5Of w) := by
  simp only [decode, opcodeOf_toNat, h]

/-! The opcode of a word of each format. -/

theorem opcodeOf_formatN (op : Opcode) : opcodeOf (formatN op) = op :=
  BitVec.eq_of_toNat_eq (by rw [opcodeOf_toNat, formatN_toNat]; omega)

theorem opcodeOf_formatR (op : Opcode) (a : Reg) : opcodeOf (formatR op a) = op :=
  BitVec.eq_of_toNat_eq (by rw [opcodeOf_toNat, formatR_toNat]; omega)

theorem opcodeOf_formatRR (op : Opcode) (a b : Reg) : opcodeOf (formatRR op a b) = op :=
  BitVec.eq_of_toNat_eq (by rw [opcodeOf_toNat, formatRR_toNat]; omega)

theorem opcodeOf_formatRI (op : Opcode) (a : Reg) (imm : Byte) : opcodeOf (formatRI op a imm) = op :=
  BitVec.eq_of_toNat_eq (by rw [opcodeOf_toNat, formatRI_toNat]; omega)

theorem opcodeOf_formatRRO (op : Opcode) (a b : Reg) (off : Off5) : opcodeOf (formatRRO op a b off) = op :=
  BitVec.eq_of_toNat_eq (by rw [opcodeOf_toNat, formatRRO_toNat]; omega)

theorem opcodeOf_formatA (op : Opcode) (t : Addr) : opcodeOf (formatA op t) = op :=
  BitVec.eq_of_toNat_eq (by rw [opcodeOf_toNat, formatA_toNat]; omega)

end Sys2Proof
end

