-- ==== Sys2Proof/Laws/Exec.lean ====
section
/-! SUPPORT. What each instruction answers, one equation per constructor of `Instr`, so that no later proof unfolds a meaning. -/

namespace Sys2Proof.Machine

theorem exec_nop (s : State) :
    exec .nop s = .next s.advance := rfl

theorem exec_ret (s : State) :
    exec .ret s = .next ((s.setSp (s.sp + 1)).jumpTo (low10 (s.memRead (s.sp + 1)))) := rfl

theorem exec_push (a : Reg) (s : State) :
    exec (.push a) s = s.storeThen s.sp (s.reg a) (fun t => (t.setSp (s.sp - 1)).advance) := rfl

theorem exec_pop (a : Reg) (s : State) :
    exec (.pop a) s = .next ((s.setReg a (s.memRead (s.sp + 1))).setSp (s.sp + 1)).advance := rfl

theorem exec_inPort (a : Reg) (s : State) :
    exec (.inPort a) s = .next (s.consumeInput.setReg a s.nextInput).advance := rfl

theorem exec_outPort (a : Reg) (s : State) :
    exec (.outPort a) s = .next (s.portOut (s.reg a)).advance := rfl

theorem exec_clr (a : Reg) (s : State) :
    exec (.clr a) s = .next (s.setReg a 0x0000).advance := rfl

theorem exec_lspReg (a : Reg) (s : State) :
    exec (.lspReg a) s = .next (s.setSp (low10 (s.reg a))).advance := rfl

theorem exec_rsp (a : Reg) (s : State) :
    exec (.rsp a) s = .next (s.setReg a (zext16 s.sp)).advance := rfl

theorem exec_not (a : Reg) (s : State) :
    exec (.not a) s = .next (s.setLogic a (s.reg a ^^^ 0xFFFF)).advance := rfl

theorem exec_mv (a b : Reg) (s : State) :
    exec (.mv a b) s = .next (s.setReg a (s.reg b)).advance := rfl

theorem exec_add (a b : Reg) (s : State) :
    exec (.add a b) s = .next ((s.setReg a (s.reg a + s.reg b)).setFlags (addCarry (s.reg a) (s.reg b)) (isZero (s.reg a + s.reg b))).advance := rfl

theorem exec_sub (a b : Reg) (s : State) :
    exec (.sub a b) s = .next ((s.setReg a (s.reg a - s.reg b)).setFlags (subBorrow (s.reg a) (s.reg b)) (isZero (s.reg a - s.reg b))).advance := rfl

theorem exec_cmp (a b : Reg) (s : State) :
    exec (.cmp a b) s = .next (s.setFlags (cmpGreater (s.reg a) (s.reg b)) (cmpEqual (s.reg a) (s.reg b))).advance := rfl

theorem exec_and (a b : Reg) (s : State) :
    exec (.and a b) s = .next (s.setLogic a (s.reg a &&& s.reg b)).advance := rfl

theorem exec_or (a b : Reg) (s : State) :
    exec (.or a b) s = .next (s.setLogic a (s.reg a ||| s.reg b)).advance := rfl

theorem exec_xor (a b : Reg) (s : State) :
    exec (.xor a b) s = .next (s.setLogic a (s.reg a ^^^ s.reg b)).advance := rfl

theorem exec_shr (a b : Reg) (s : State) :
    exec (.shr a b) s = .next (s.setLogic a (shiftRight (s.reg a) (s.reg b))).advance := rfl

theorem exec_shl (a b : Reg) (s : State) :
    exec (.shl a b) s = .next (s.setLogic a (shiftLeft (s.reg a) (s.reg b))).advance := rfl

theorem exec_mvh (a : Reg) (imm : Byte) (s : State) :
    exec (.mvh a imm) s = .next (s.setReg a (withHighByte (s.reg a) imm)).advance := rfl

theorem exec_mvl (a : Reg) (imm : Byte) (s : State) :
    exec (.mvl a imm) s = .next (s.setReg a (withLowByte (s.reg a) imm)).advance := rfl

theorem exec_ldReg (a b : Reg) (off : Off5) (s : State) :
    exec (.ldReg a b off) s = .next (s.setReg a (s.memRead (eaReg s b off))).advance := rfl

theorem exec_stReg (a b : Reg) (off : Off5) (s : State) :
    exec (.stReg a b off) s = s.storeThen (eaReg s b off) (s.reg a) State.advance := rfl

theorem exec_ldStack (a : Reg) (off : Byte) (s : State) :
    exec (.ldStack a off) s = .next (s.setReg a (s.memRead (eaStack s off))).advance := rfl

theorem exec_stStack (a : Reg) (off : Byte) (s : State) :
    exec (.stStack a off) s = s.storeThen (eaStack s off) (s.reg a) State.advance := rfl

theorem exec_call (addr : Addr) (s : State) :
    exec (.call addr) s = s.storeThen s.sp (zext16 (s.pc + 1)) (fun t => (t.setSp (s.sp - 1)).jumpTo addr) := rfl

theorem exec_jmp (addr : Addr) (s : State) :
    exec (.jmp addr) s = .next (s.jumpTo addr) := rfl

theorem exec_jc (addr : Addr) (s : State) :
    exec (.jc addr) s = .next (s.branch s.c addr) := rfl

theorem exec_jnc (addr : Addr) (s : State) :
    exec (.jnc addr) s = .next (s.branch (!s.c) addr) := rfl

theorem exec_jz (addr : Addr) (s : State) :
    exec (.jz addr) s = .next (s.branch s.z addr) := rfl

theorem exec_jnz (addr : Addr) (s : State) :
    exec (.jnz addr) s = .next (s.branch (!s.z) addr) := rfl

theorem exec_lspImm (addr : Addr) (s : State) :
    exec (.lspImm addr) s = .next (s.setSp addr).advance := rfl

end Sys2Proof.Machine
end

