-- ==== Sys2Proof/Laws/Memory.lean ====
section
/-! SUPPORT. The laws of one array of cells: a read after a write, and every operation keeps the canonical form. -/

namespace Sys2Proof.Machine

/-- A read after a write: the value written, at its own address, and the old value everywhere else. -/
theorem Memory.read_write (m : Memory) (a x : Nat) (v : Word) :
    (m.write a v).read x = if x = a then some v else m.read x := by
  induction m with
  | nil => simp [Memory.write, Memory.read]
  | cons e m ih =>
    obtain ⟨b, y⟩ := e
    by_cases h1 : a < b
    · simp [Memory.write, Memory.read, h1]
    · by_cases h2 : a = b
      · subst h2
        by_cases hx : x = a <;> simp [Memory.write, Memory.read, hx]
      · by_cases hb : x = b
        · have : b ≠ a := fun e => h2 e.symm
          simp [Memory.write, Memory.read, h1, h2, hb, this]
        · simp [Memory.write, Memory.read, h1, h2, hb, ih]

@[simp] theorem Memory.read_write_self (m : Memory) (a : Nat) (v : Word) : (m.write a v).read a = some v := by
  simp [Memory.read_write]

theorem Memory.read_write_of_ne (m : Memory) (a x : Nat) (v : Word) (h : x ≠ a) : (m.write a v).read x = m.read x := by
  simp [Memory.read_write, h]

/-- The form of a non-empty array: its first address is one of the 1024 and lies below all the others. -/
theorem Memory.wf_cons (a : Nat) (v : Word) (m : Memory) :
    Memory.wf ((a, v) :: m) = true ↔ a < 1024 ∧ (∀ e ∈ m, a < e.1) ∧ m.wf = true := by
  simp [Memory.wf, and_assoc]

/-- Every entry after a write is the new one or an old one. -/
theorem Memory.mem_write {m : Memory} {a : Nat} {v : Word} {e : Nat × Word} (h : e ∈ m.write a v) :
    e = (a, v) ∨ e ∈ m := by
  induction m with
  | nil => simpa [Memory.write] using h
  | cons d m ih =>
    obtain ⟨b, y⟩ := d
    simp only [Memory.write] at h
    split at h
    · simpa using h
    · split at h
      · rcases List.mem_cons.1 h with h | h
        · exact .inl h
        · exact .inr (List.mem_cons_of_mem _ h)
      · rcases List.mem_cons.1 h with h | h
        · exact .inr (h ▸ List.mem_cons_self)
        · exact (ih h).imp id (List.mem_cons_of_mem _)

/-- A write to one of the 1024 addresses keeps the canonical form. -/
theorem Memory.wf_write (m : Memory) (a : Nat) (v : Word) (ha : a < 1024) (h : m.wf = true) : (m.write a v).wf = true := by
  induction m with
  | nil => simp [Memory.write, Memory.wf, ha]
  | cons d m ih =>
    obtain ⟨b, y⟩ := d
    obtain ⟨hb, hlt, hm⟩ := (Memory.wf_cons b y m).1 h
    simp only [Memory.write]
    split
    · rename_i hab
      refine (Memory.wf_cons _ _ _).2 ⟨ha, fun e he => ?_, h⟩
      rcases List.mem_cons.1 he with rfl | he
      · exact hab
      · exact hab.trans (hlt e he)
    · split
      · rename_i hab
        exact (Memory.wf_cons _ _ _).2 ⟨ha, hab ▸ hlt, hm⟩
      · rename_i h1 h2
        refine (Memory.wf_cons _ _ _).2 ⟨hb, fun e he => ?_, ih hm⟩
        rcases Memory.mem_write he with rfl | he
        · show b < a
          omega
        · exact hlt e he

/-- The empty array is in canonical form. -/
@[simp] theorem Memory.wf_nil : Memory.wf [] = true := rfl

/-- An array with nothing listed holds no value. -/
@[simp] theorem Memory.read_nil (a : Nat) : Memory.read [] a = none := rfl

end Sys2Proof.Machine
end

