-- ==== Sys2Proof/Laws/State.lean ====
section
/-! SUPPORT. One lemma per field per update of the state, each true by `rfl`; and what the accessors `reg`, `memRead`,
`fetchWord` and `writable` see of each update. -/

namespace Sys2Proof.Machine

variable (s : State)

/-! `setReg` -/

@[simp] theorem State.setReg_regs (r : Reg) (v : Word) : (s.setReg r v).regs = s.regs.set r.toFin v := rfl
@[simp] theorem State.setReg_pc (r : Reg) (v : Word) : (s.setReg r v).pc = s.pc := rfl
@[simp] theorem State.setReg_sp (r : Reg) (v : Word) : (s.setReg r v).sp = s.sp := rfl
@[simp] theorem State.setReg_c (r : Reg) (v : Word) : (s.setReg r v).c = s.c := rfl
@[simp] theorem State.setReg_z (r : Reg) (v : Word) : (s.setReg r v).z = s.z := rfl
@[simp] theorem State.setReg_mem (r : Reg) (v : Word) : (s.setReg r v).mem = s.mem := rfl
@[simp] theorem State.setReg_rom (r : Reg) (v : Word) : (s.setReg r v).rom = s.rom := rfl
@[simp] theorem State.setReg_memOrg (r : Reg) (v : Word) : (s.setReg r v).memOrg = s.memOrg := rfl
@[simp] theorem State.setReg_readOnly (r : Reg) (v : Word) : (s.setReg r v).readOnly = s.readOnly := rfl
@[simp] theorem State.setReg_outputs (r : Reg) (v : Word) : (s.setReg r v).outputs = s.outputs := rfl
@[simp] theorem State.setReg_inputs (r : Reg) (v : Word) : (s.setReg r v).inputs = s.inputs := rfl
@[simp] theorem State.setReg_inputCount (r : Reg) (v : Word) : (s.setReg r v).inputCount = s.inputCount := rfl
@[simp] theorem State.setReg_resetRequest (r : Reg) (v : Word) : (s.setReg r v).resetRequest = s.resetRequest := rfl
@[simp] theorem State.setReg_resetCount (r : Reg) (v : Word) : (s.setReg r v).resetCount = s.resetCount := rfl
@[simp] theorem State.memRead_setReg (r : Reg) (v : Word) (x : Addr) : (s.setReg r v).memRead x = s.memRead x := rfl
@[simp] theorem State.fetchWord_setReg (r : Reg) (v : Word) (x : Addr) : (s.setReg r v).fetchWord x = s.fetchWord x := rfl
@[simp] theorem State.writable_setReg (r : Reg) (v : Word) (x : Addr) : (s.setReg r v).writable x = s.writable x := rfl

/-! `advance` -/

@[simp] theorem State.advance_regs : s.advance.regs = s.regs := rfl
@[simp] theorem State.advance_pc : s.advance.pc = s.pc + 1 := rfl
@[simp] theorem State.advance_sp : s.advance.sp = s.sp := rfl
@[simp] theorem State.advance_c : s.advance.c = s.c := rfl
@[simp] theorem State.advance_z : s.advance.z = s.z := rfl
@[simp] theorem State.advance_mem : s.advance.mem = s.mem := rfl
@[simp] theorem State.advance_rom : s.advance.rom = s.rom := rfl
@[simp] theorem State.advance_memOrg : s.advance.memOrg = s.memOrg := rfl
@[simp] theorem State.advance_readOnly : s.advance.readOnly = s.readOnly := rfl
@[simp] theorem State.advance_outputs : s.advance.outputs = s.outputs := rfl
@[simp] theorem State.advance_inputs : s.advance.inputs = s.inputs := rfl
@[simp] theorem State.advance_inputCount : s.advance.inputCount = s.inputCount := rfl
@[simp] theorem State.advance_resetRequest : s.advance.resetRequest = s.resetRequest := rfl
@[simp] theorem State.advance_resetCount : s.advance.resetCount = s.resetCount := rfl
@[simp] theorem State.reg_advance (x : Reg) : s.advance.reg x = s.reg x := rfl
@[simp] theorem State.memRead_advance (x : Addr) : s.advance.memRead x = s.memRead x := rfl
@[simp] theorem State.fetchWord_advance (x : Addr) : s.advance.fetchWord x = s.fetchWord x := rfl
@[simp] theorem State.writable_advance (x : Addr) : s.advance.writable x = s.writable x := rfl

/-! `jumpTo` -/

@[simp] theorem State.jumpTo_regs (t : Addr) : (s.jumpTo t).regs = s.regs := rfl
@[simp] theorem State.jumpTo_pc (t : Addr) : (s.jumpTo t).pc = t := rfl
@[simp] theorem State.jumpTo_sp (t : Addr) : (s.jumpTo t).sp = s.sp := rfl
@[simp] theorem State.jumpTo_c (t : Addr) : (s.jumpTo t).c = s.c := rfl
@[simp] theorem State.jumpTo_z (t : Addr) : (s.jumpTo t).z = s.z := rfl
@[simp] theorem State.jumpTo_mem (t : Addr) : (s.jumpTo t).mem = s.mem := rfl
@[simp] theorem State.jumpTo_rom (t : Addr) : (s.jumpTo t).rom = s.rom := rfl
@[simp] theorem State.jumpTo_memOrg (t : Addr) : (s.jumpTo t).memOrg = s.memOrg := rfl
@[simp] theorem State.jumpTo_readOnly (t : Addr) : (s.jumpTo t).readOnly = s.readOnly := rfl
@[simp] theorem State.jumpTo_outputs (t : Addr) : (s.jumpTo t).outputs = s.outputs := rfl
@[simp] theorem State.jumpTo_inputs (t : Addr) : (s.jumpTo t).inputs = s.inputs := rfl
@[simp] theorem State.jumpTo_inputCount (t : Addr) : (s.jumpTo t).inputCount = s.inputCount := rfl
@[simp] theorem State.jumpTo_resetRequest (t : Addr) : (s.jumpTo t).resetRequest = s.resetRequest := rfl
@[simp] theorem State.jumpTo_resetCount (t : Addr) : (s.jumpTo t).resetCount = s.resetCount := rfl
@[simp] theorem State.reg_jumpTo (t : Addr) (x : Reg) : (s.jumpTo t).reg x = s.reg x := rfl
@[simp] theorem State.memRead_jumpTo (t : Addr) (x : Addr) : (s.jumpTo t).memRead x = s.memRead x := rfl
@[simp] theorem State.fetchWord_jumpTo (t : Addr) (x : Addr) : (s.jumpTo t).fetchWord x = s.fetchWord x := rfl
@[simp] theorem State.writable_jumpTo (t : Addr) (x : Addr) : (s.jumpTo t).writable x = s.writable x := rfl

/-! `setSp` -/

@[simp] theorem State.setSp_regs (a : Addr) : (s.setSp a).regs = s.regs := rfl
@[simp] theorem State.setSp_pc (a : Addr) : (s.setSp a).pc = s.pc := rfl
@[simp] theorem State.setSp_sp (a : Addr) : (s.setSp a).sp = a := rfl
@[simp] theorem State.setSp_c (a : Addr) : (s.setSp a).c = s.c := rfl
@[simp] theorem State.setSp_z (a : Addr) : (s.setSp a).z = s.z := rfl
@[simp] theorem State.setSp_mem (a : Addr) : (s.setSp a).mem = s.mem := rfl
@[simp] theorem State.setSp_rom (a : Addr) : (s.setSp a).rom = s.rom := rfl
@[simp] theorem State.setSp_memOrg (a : Addr) : (s.setSp a).memOrg = s.memOrg := rfl
@[simp] theorem State.setSp_readOnly (a : Addr) : (s.setSp a).readOnly = s.readOnly := rfl
@[simp] theorem State.setSp_outputs (a : Addr) : (s.setSp a).outputs = s.outputs := rfl
@[simp] theorem State.setSp_inputs (a : Addr) : (s.setSp a).inputs = s.inputs := rfl
@[simp] theorem State.setSp_inputCount (a : Addr) : (s.setSp a).inputCount = s.inputCount := rfl
@[simp] theorem State.setSp_resetRequest (a : Addr) : (s.setSp a).resetRequest = s.resetRequest := rfl
@[simp] theorem State.setSp_resetCount (a : Addr) : (s.setSp a).resetCount = s.resetCount := rfl
@[simp] theorem State.reg_setSp (a : Addr) (x : Reg) : (s.setSp a).reg x = s.reg x := rfl
@[simp] theorem State.memRead_setSp (a : Addr) (x : Addr) : (s.setSp a).memRead x = s.memRead x := rfl
@[simp] theorem State.fetchWord_setSp (a : Addr) (x : Addr) : (s.setSp a).fetchWord x = s.fetchWord x := rfl
@[simp] theorem State.writable_setSp (a : Addr) (x : Addr) : (s.setSp a).writable x = s.writable x := rfl

/-! `setFlags` -/

@[simp] theorem State.setFlags_regs (c z : Bool) : (s.setFlags c z).regs = s.regs := rfl
@[simp] theorem State.setFlags_pc (c z : Bool) : (s.setFlags c z).pc = s.pc := rfl
@[simp] theorem State.setFlags_sp (c z : Bool) : (s.setFlags c z).sp = s.sp := rfl
@[simp] theorem State.setFlags_c (c z : Bool) : (s.setFlags c z).c = c := rfl
@[simp] theorem State.setFlags_z (c z : Bool) : (s.setFlags c z).z = z := rfl
@[simp] theorem State.setFlags_mem (c z : Bool) : (s.setFlags c z).mem = s.mem := rfl
@[simp] theorem State.setFlags_rom (c z : Bool) : (s.setFlags c z).rom = s.rom := rfl
@[simp] theorem State.setFlags_memOrg (c z : Bool) : (s.setFlags c z).memOrg = s.memOrg := rfl
@[simp] theorem State.setFlags_readOnly (c z : Bool) : (s.setFlags c z).readOnly = s.readOnly := rfl
@[simp] theorem State.setFlags_outputs (c z : Bool) : (s.setFlags c z).outputs = s.outputs := rfl
@[simp] theorem State.setFlags_inputs (c z : Bool) : (s.setFlags c z).inputs = s.inputs := rfl
@[simp] theorem State.setFlags_inputCount (c z : Bool) : (s.setFlags c z).inputCount = s.inputCount := rfl
@[simp] theorem State.setFlags_resetRequest (c z : Bool) : (s.setFlags c z).resetRequest = s.resetRequest := rfl
@[simp] theorem State.setFlags_resetCount (c z : Bool) : (s.setFlags c z).resetCount = s.resetCount := rfl
@[simp] theorem State.reg_setFlags (c z : Bool) (x : Reg) : (s.setFlags c z).reg x = s.reg x := rfl
@[simp] theorem State.memRead_setFlags (c z : Bool) (x : Addr) : (s.setFlags c z).memRead x = s.memRead x := rfl
@[simp] theorem State.fetchWord_setFlags (c z : Bool) (x : Addr) : (s.setFlags c z).fetchWord x = s.fetchWord x := rfl
@[simp] theorem State.writable_setFlags (c z : Bool) (x : Addr) : (s.setFlags c z).writable x = s.writable x := rfl

/-! `memWrite` -/

@[simp] theorem State.memWrite_regs (a : Addr) (v : Word) : (s.memWrite a v).regs = s.regs := rfl
@[simp] theorem State.memWrite_pc (a : Addr) (v : Word) : (s.memWrite a v).pc = s.pc := rfl
@[simp] theorem State.memWrite_sp (a : Addr) (v : Word) : (s.memWrite a v).sp = s.sp := rfl
@[simp] theorem State.memWrite_c (a : Addr) (v : Word) : (s.memWrite a v).c = s.c := rfl
@[simp] theorem State.memWrite_z (a : Addr) (v : Word) : (s.memWrite a v).z = s.z := rfl
@[simp] theorem State.memWrite_mem (a : Addr) (v : Word) : (s.memWrite a v).mem = s.mem.write a.toNat v := rfl
@[simp] theorem State.memWrite_rom (a : Addr) (v : Word) : (s.memWrite a v).rom = s.rom := rfl
@[simp] theorem State.memWrite_memOrg (a : Addr) (v : Word) : (s.memWrite a v).memOrg = s.memOrg := rfl
@[simp] theorem State.memWrite_readOnly (a : Addr) (v : Word) : (s.memWrite a v).readOnly = s.readOnly := rfl
@[simp] theorem State.memWrite_outputs (a : Addr) (v : Word) : (s.memWrite a v).outputs = s.outputs := rfl
@[simp] theorem State.memWrite_inputs (a : Addr) (v : Word) : (s.memWrite a v).inputs = s.inputs := rfl
@[simp] theorem State.memWrite_inputCount (a : Addr) (v : Word) : (s.memWrite a v).inputCount = s.inputCount := rfl
@[simp] theorem State.memWrite_resetRequest (a : Addr) (v : Word) : (s.memWrite a v).resetRequest = s.resetRequest := rfl
@[simp] theorem State.memWrite_resetCount (a : Addr) (v : Word) : (s.memWrite a v).resetCount = s.resetCount := rfl
@[simp] theorem State.reg_memWrite (a : Addr) (v : Word) (x : Reg) : (s.memWrite a v).reg x = s.reg x := rfl
@[simp] theorem State.writable_memWrite (a : Addr) (v : Word) (x : Addr) : (s.memWrite a v).writable x = s.writable x := rfl

/-! `consumeInput` -/

@[simp] theorem State.consumeInput_regs : s.consumeInput.regs = s.regs := rfl
@[simp] theorem State.consumeInput_pc : s.consumeInput.pc = s.pc := rfl
@[simp] theorem State.consumeInput_sp : s.consumeInput.sp = s.sp := rfl
@[simp] theorem State.consumeInput_c : s.consumeInput.c = s.c := rfl
@[simp] theorem State.consumeInput_z : s.consumeInput.z = s.z := rfl
@[simp] theorem State.consumeInput_mem : s.consumeInput.mem = s.mem := rfl
@[simp] theorem State.consumeInput_rom : s.consumeInput.rom = s.rom := rfl
@[simp] theorem State.consumeInput_memOrg : s.consumeInput.memOrg = s.memOrg := rfl
@[simp] theorem State.consumeInput_readOnly : s.consumeInput.readOnly = s.readOnly := rfl
@[simp] theorem State.consumeInput_outputs : s.consumeInput.outputs = s.outputs := rfl
@[simp] theorem State.consumeInput_inputs : s.consumeInput.inputs = s.inputs.tail := rfl
@[simp] theorem State.consumeInput_inputCount : s.consumeInput.inputCount = s.inputCount + 1 := rfl
@[simp] theorem State.consumeInput_resetRequest : s.consumeInput.resetRequest = s.resetRequest := rfl
@[simp] theorem State.consumeInput_resetCount : s.consumeInput.resetCount = s.resetCount := rfl
@[simp] theorem State.reg_consumeInput (x : Reg) : s.consumeInput.reg x = s.reg x := rfl
@[simp] theorem State.memRead_consumeInput (x : Addr) : s.consumeInput.memRead x = s.memRead x := rfl
@[simp] theorem State.fetchWord_consumeInput (x : Addr) : s.consumeInput.fetchWord x = s.fetchWord x := rfl
@[simp] theorem State.writable_consumeInput (x : Addr) : s.consumeInput.writable x = s.writable x := rfl

/-! `portOut` -/

@[simp] theorem State.portOut_regs (v : Word) : (s.portOut v).regs = s.regs := rfl
@[simp] theorem State.portOut_pc (v : Word) : (s.portOut v).pc = s.pc := rfl
@[simp] theorem State.portOut_sp (v : Word) : (s.portOut v).sp = s.sp := rfl
@[simp] theorem State.portOut_c (v : Word) : (s.portOut v).c = s.c := rfl
@[simp] theorem State.portOut_z (v : Word) : (s.portOut v).z = s.z := rfl
@[simp] theorem State.portOut_mem (v : Word) : (s.portOut v).mem = s.mem := rfl
@[simp] theorem State.portOut_rom (v : Word) : (s.portOut v).rom = s.rom := rfl
@[simp] theorem State.portOut_memOrg (v : Word) : (s.portOut v).memOrg = s.memOrg := rfl
@[simp] theorem State.portOut_readOnly (v : Word) : (s.portOut v).readOnly = s.readOnly := rfl
@[simp] theorem State.portOut_outputs (v : Word) : (s.portOut v).outputs = s.outputs ++ [v] := rfl
@[simp] theorem State.portOut_inputs (v : Word) : (s.portOut v).inputs = s.inputs := rfl
@[simp] theorem State.portOut_inputCount (v : Word) : (s.portOut v).inputCount = s.inputCount := rfl
@[simp] theorem State.portOut_resetRequest (v : Word) : (s.portOut v).resetRequest = s.resetRequest := rfl
@[simp] theorem State.portOut_resetCount (v : Word) : (s.portOut v).resetCount = s.resetCount := rfl
@[simp] theorem State.reg_portOut (v : Word) (x : Reg) : (s.portOut v).reg x = s.reg x := rfl
@[simp] theorem State.memRead_portOut (v : Word) (x : Addr) : (s.portOut v).memRead x = s.memRead x := rfl
@[simp] theorem State.fetchWord_portOut (v : Word) (x : Addr) : (s.portOut v).fetchWord x = s.fetchWord x := rfl
@[simp] theorem State.writable_portOut (v : Word) (x : Addr) : (s.portOut v).writable x = s.writable x := rfl

/-! `presentInput` -/

@[simp] theorem State.presentInput_regs (v : Word) : (s.presentInput v).regs = s.regs := rfl
@[simp] theorem State.presentInput_pc (v : Word) : (s.presentInput v).pc = s.pc := rfl
@[simp] theorem State.presentInput_sp (v : Word) : (s.presentInput v).sp = s.sp := rfl
@[simp] theorem State.presentInput_c (v : Word) : (s.presentInput v).c = s.c := rfl
@[simp] theorem State.presentInput_z (v : Word) : (s.presentInput v).z = s.z := rfl
@[simp] theorem State.presentInput_mem (v : Word) : (s.presentInput v).mem = s.mem := rfl
@[simp] theorem State.presentInput_rom (v : Word) : (s.presentInput v).rom = s.rom := rfl
@[simp] theorem State.presentInput_memOrg (v : Word) : (s.presentInput v).memOrg = s.memOrg := rfl
@[simp] theorem State.presentInput_readOnly (v : Word) : (s.presentInput v).readOnly = s.readOnly := rfl
@[simp] theorem State.presentInput_outputs (v : Word) : (s.presentInput v).outputs = s.outputs := rfl
@[simp] theorem State.presentInput_inputs (v : Word) : (s.presentInput v).inputs = s.inputs ++ [v] := rfl
@[simp] theorem State.presentInput_inputCount (v : Word) : (s.presentInput v).inputCount = s.inputCount := rfl
@[simp] theorem State.presentInput_resetRequest (v : Word) : (s.presentInput v).resetRequest = s.resetRequest := rfl
@[simp] theorem State.presentInput_resetCount (v : Word) : (s.presentInput v).resetCount = s.resetCount := rfl
@[simp] theorem State.reg_presentInput (v : Word) (x : Reg) : (s.presentInput v).reg x = s.reg x := rfl
@[simp] theorem State.memRead_presentInput (v : Word) (x : Addr) : (s.presentInput v).memRead x = s.memRead x := rfl
@[simp] theorem State.fetchWord_presentInput (v : Word) (x : Addr) : (s.presentInput v).fetchWord x = s.fetchWord x := rfl
@[simp] theorem State.writable_presentInput (v : Word) (x : Addr) : (s.presentInput v).writable x = s.writable x := rfl

/-! `requestReset` -/

@[simp] theorem State.requestReset_regs : s.requestReset.regs = s.regs := rfl
@[simp] theorem State.requestReset_pc : s.requestReset.pc = s.pc := rfl
@[simp] theorem State.requestReset_sp : s.requestReset.sp = s.sp := rfl
@[simp] theorem State.requestReset_c : s.requestReset.c = s.c := rfl
@[simp] theorem State.requestReset_z : s.requestReset.z = s.z := rfl
@[simp] theorem State.requestReset_mem : s.requestReset.mem = s.mem := rfl
@[simp] theorem State.requestReset_rom : s.requestReset.rom = s.rom := rfl
@[simp] theorem State.requestReset_memOrg : s.requestReset.memOrg = s.memOrg := rfl
@[simp] theorem State.requestReset_readOnly : s.requestReset.readOnly = s.readOnly := rfl
@[simp] theorem State.requestReset_outputs : s.requestReset.outputs = s.outputs := rfl
@[simp] theorem State.requestReset_inputs : s.requestReset.inputs = s.inputs := rfl
@[simp] theorem State.requestReset_inputCount : s.requestReset.inputCount = s.inputCount := rfl
@[simp] theorem State.requestReset_resetRequest : s.requestReset.resetRequest = true := rfl
@[simp] theorem State.requestReset_resetCount : s.requestReset.resetCount = s.resetCount := rfl
@[simp] theorem State.reg_requestReset (x : Reg) : s.requestReset.reg x = s.reg x := rfl
@[simp] theorem State.memRead_requestReset (x : Addr) : s.requestReset.memRead x = s.memRead x := rfl
@[simp] theorem State.fetchWord_requestReset (x : Addr) : s.requestReset.fetchWord x = s.fetchWord x := rfl
@[simp] theorem State.writable_requestReset (x : Addr) : s.requestReset.writable x = s.writable x := rfl

/-! `cpuReset` -/

@[simp] theorem State.cpuReset_regs : s.cpuReset.regs = Vector.replicate 8 0x0000 := rfl
@[simp] theorem State.cpuReset_pc : s.cpuReset.pc = 0x000 := rfl
@[simp] theorem State.cpuReset_sp : s.cpuReset.sp = 0x3FF := rfl
@[simp] theorem State.cpuReset_c : s.cpuReset.c = carryAfterReset (s.resetCount + 1) := rfl
@[simp] theorem State.cpuReset_z : s.cpuReset.z = zeroAfterReset (s.resetCount + 1) := rfl
@[simp] theorem State.cpuReset_mem : s.cpuReset.mem = s.mem := rfl
@[simp] theorem State.cpuReset_rom : s.cpuReset.rom = s.rom := rfl
@[simp] theorem State.cpuReset_memOrg : s.cpuReset.memOrg = s.memOrg := rfl
@[simp] theorem State.cpuReset_readOnly : s.cpuReset.readOnly = s.readOnly := rfl
@[simp] theorem State.cpuReset_outputs : s.cpuReset.outputs = s.outputs := rfl
@[simp] theorem State.cpuReset_inputs : s.cpuReset.inputs = s.inputs := rfl
@[simp] theorem State.cpuReset_inputCount : s.cpuReset.inputCount = s.inputCount := rfl
@[simp] theorem State.cpuReset_resetRequest : s.cpuReset.resetRequest = false := rfl
@[simp] theorem State.cpuReset_resetCount : s.cpuReset.resetCount = s.resetCount + 1 := rfl
@[simp] theorem State.memRead_cpuReset (x : Addr) : s.cpuReset.memRead x = s.memRead x := rfl
@[simp] theorem State.fetchWord_cpuReset (x : Addr) : s.cpuReset.fetchWord x = s.fetchWord x := rfl
@[simp] theorem State.writable_cpuReset (x : Addr) : s.cpuReset.writable x = s.writable x := rfl

/-! Registers: a read after a write. -/

theorem State.reg_setReg (r x : Reg) (v : Word) : (s.setReg r v).reg x = if x = r then v else s.reg x := by
  simp only [State.reg, State.setReg, Fin.getElem_fin, Vector.getElem_set]
  by_cases h : x = r
  · simp [h]
  · have : r.toNat ≠ x.toNat := fun e => h (BitVec.eq_of_toNat_eq e.symm)
    simp [h, this]

@[simp] theorem State.reg_setReg_self (r : Reg) (v : Word) : (s.setReg r v).reg r = v := by simp [State.reg_setReg]

theorem State.reg_setReg_of_ne (r x : Reg) (v : Word) (h : x ≠ r) : (s.setReg r v).reg x = s.reg x := by
  simp [State.reg_setReg, h]

end Sys2Proof.Machine
end

