-- ==== Sys2Proof/Laws/Ops.lean ====
section
/-! SUPPORT. What each shared operation can do, said once: the store, the placing of a word, the branch, the flag and operand
computations. -/

namespace Sys2Proof.Machine

/-! The store (R42, R50). -/

theorem State.memRead_memWrite (s : State) (a x : Addr) (v : Word) :
    (s.memWrite a v).memRead x = if x = a then v else s.memRead x := by
  by_cases h : x = a
  · subst h
    simp [State.memRead]
  · have : x.toNat ≠ a.toNat := fun e => h (BitVec.eq_of_toNat_eq e)
    simp [State.memRead, Memory.read_write_of_ne _ _ _ _ this, h]

theorem State.fetchWord_memWrite (s : State) (a x : Addr) (v : Word) :
    (s.memWrite a v).fetchWord x = if s.memOrg = .unified ∧ x = a then some v else s.fetchWord x := by
  by_cases h : x = a
  · subst h
    cases ho : s.memOrg <;> simp [State.fetchWord, ho]
  · have : x.toNat ≠ a.toNat := fun e => h (BitVec.eq_of_toNat_eq e)
    cases ho : s.memOrg <;> simp [State.fetchWord, ho, Memory.read_write_of_ne _ _ _ _ this, h]

/-- A store to a writable cell completes. -/
theorem State.storeThen_of_writable {s : State} {a : Addr} {v : Word} {rest : State → State} (h : s.writable a = true) :
    s.storeThen a v rest = .next (rest (s.memWrite a v)) := by simp [State.storeThen, h]

/-- A store to a read-only cell is refused. -/
theorem State.storeThen_of_not_writable {s : State} {a : Addr} {v : Word} {rest : State → State}
    (h : s.writable a = false) : s.storeThen a v rest = .refused (.storeToReadOnly a) := by simp [State.storeThen, h]

/-- If a store answers a next state, the cell was writable and holds the value. -/
theorem State.storeThen_eq_next {s t : State} {a : Addr} {v : Word} {rest : State → State} :
    s.storeThen a v rest = .next t ↔ s.writable a = true ∧ rest (s.memWrite a v) = t := by
  by_cases h : s.writable a = true <;> simp [State.storeThen, h]

/-! The placing of a word where instructions are fetched (R42, R223). -/

@[simp] theorem State.placeWord_memOrg (s : State) (a : Addr) (w : Word) : (s.placeWord a w).memOrg = s.memOrg := by
  cases h : s.memOrg <;> simp [State.placeWord, h]

@[simp] theorem State.placeWord_pc (s : State) (a : Addr) (w : Word) : (s.placeWord a w).pc = s.pc := by
  cases h : s.memOrg <;> simp [State.placeWord, h]

@[simp] theorem State.placeWord_resetRequest (s : State) (a : Addr) (w : Word) :
    (s.placeWord a w).resetRequest = s.resetRequest := by
  cases h : s.memOrg <;> simp [State.placeWord, h]

theorem State.fetchWord_placeWord (s : State) (a x : Addr) (w : Word) :
    (s.placeWord a w).fetchWord x = if x = a then some w else s.fetchWord x := by
  by_cases h : x = a
  · subst h
    cases ho : s.memOrg <;> simp [State.placeWord, State.fetchWord, ho]
  · have : x.toNat ≠ a.toNat := fun e => h (BitVec.eq_of_toNat_eq e)
    cases ho : s.memOrg <;> simp [State.placeWord, State.fetchWord, ho, Memory.read_write_of_ne _ _ _ _ this, h]

/-- The instruction that is placed is the one the next step fetches. -/
theorem State.fetchWord_withFetchWord (s : State) (w : Nat) :
    (s.withFetchWord 16 w).fetchWord (s.withFetchWord 16 w).pc = some (BitVec.ofNat 16 w) := by
  have hw : BitVec.ofNat 16 (w % 2 ^ 16) = BitVec.ofNat 16 w := BitVec.eq_of_toNat_eq (by simp)
  show (s.placeWord s.pc (BitVec.ofNat 16 (w % 2 ^ 16))).fetchWord (s.placeWord s.pc (BitVec.ofNat 16 (w % 2 ^ 16))).pc = _
  rw [State.placeWord_pc, State.fetchWord_placeWord, if_pos rfl, hw]

/-! The branch (R24). -/

theorem State.branch_true (s : State) (t : Addr) : s.branch true t = s.jumpTo t := rfl

theorem State.branch_false (s : State) (t : Addr) : s.branch false t = s.advance := rfl

/-- A branch sets `pc` and nothing else. -/
theorem State.branch_eq (s : State) (taken : Bool) (t : Addr) :
    s.branch taken t = { s with pc := if taken then t else s.pc + 1 } := by cases taken <;> rfl

/-! Flags (R31). -/

@[simp] theorem isZero_iff (r : Word) : isZero r = true ↔ r = 0x0000 := by simp [isZero]

@[simp] theorem addCarry_iff (x y : Word) : addCarry x y = true ↔ 65536 ≤ x.toNat + y.toNat := by simp [addCarry]

@[simp] theorem subBorrow_iff (x y : Word) : subBorrow x y = true ↔ x.toNat < y.toNat := by simp [subBorrow]

@[simp] theorem cmpEqual_iff (x y : Word) : cmpEqual x y = true ↔ x = y := by simp [cmpEqual]

@[simp] theorem cmpGreater_iff (x y : Word) : cmpGreater x y = true ↔ x.toInt < y.toInt := by simp [cmpGreater]

/-! Operands (R8, R140, R141, R150). -/

@[simp] theorem low10_toNat (v : Word) : (low10 v).toNat = v.toNat % 1024 := by simp [low10]

@[simp] theorem zext16_toNat (a : Addr) : (zext16 a).toNat = a.toNat := by simp [zext16]; omega

@[simp] theorem low10_zext16 (a : Addr) : low10 (zext16 a) = a := BitVec.eq_of_toNat_eq (by simp; omega)

/-- An address and a signed offset, modulo 2^10 (R43, D6). -/
theorem add_signExtend_toNat {w : Nat} (h : w ≤ 10) (a : Addr) (off : BitVec w) :
    ((a + off.signExtend 10).toNat : Int) = (a.toNat + off.toInt) % 1024 := by
  rw [BitVec.toNat_add, ← BitVec.toInt_signExtend_of_le h]
  have := BitVec.toInt_eq_toNat_cond (off.signExtend 10)
  have hlt := (off.signExtend 10).isLt
  split at this <;> omega

theorem eaReg_toNat (s : State) (b : Reg) (off : Off5) :
    ((eaReg s b off).toNat : Int) = ((s.reg b).toNat + off.toInt) % 1024 := by
  rw [eaReg, add_signExtend_toNat (by decide), low10_toNat]
  omega

theorem eaStack_toNat (s : State) (off : Byte) : ((eaStack s off).toNat : Int) = (s.sp.toNat + off.toInt) % 1024 :=
  add_signExtend_toNat (by decide) _ _

@[simp] theorem withHighByte_toNat (x : Word) (imm : Byte) :
    (withHighByte x imm).toNat = imm.toNat * 256 + x.toNat % 256 := by
  have h : (withHighByte x imm).toNat = imm.toNat * 2 ^ 8 + (x.extractLsb' 0 8).toNat := append_toNat imm _
  simpa [BitVec.extractLsb'_toNat] using h

@[simp] theorem withLowByte_toNat (x : Word) (imm : Byte) :
    (withLowByte x imm).toNat = x.toNat / 256 * 256 + imm.toNat := by
  have h : (withLowByte x imm).toNat = (x.extractLsb' 8 8).toNat * 2 ^ 8 + imm.toNat := append_toNat _ imm
  rw [h, BitVec.extractLsb'_toNat, Nat.shiftRight_eq_div_pow]
  omega

theorem shiftRight_toNat (x n : Word) :
    (shiftRight x n).toNat = if n.toNat < 16 then x.toNat / 2 ^ n.toNat else 0 := by
  unfold shiftRight
  split <;> simp [Nat.shiftRight_eq_div_pow]

theorem shiftLeft_toNat (x n : Word) :
    (shiftLeft x n).toNat = if n.toNat < 16 then x.toNat * 2 ^ n.toNat % 65536 else 0 := by
  unfold shiftLeft
  split <;> simp [Nat.shiftLeft_eq]

end Sys2Proof.Machine
end

