-- ==== Sys2Proof/Laws/PerInstr.lean ====
section
/-! SUPPORT. Statements about every instruction as syntax, one lemma per constructor of `Instr`. -/

namespace Sys2Proof

/-- The opcode of every instruction, as the opcode map of R73 lists it. -/
def tableOpcode : Instr → Opcode
  | .nop => 0b00000#5
  | .mv _ _ => 0b00001#5
  | .mvh _ _ => 0b00010#5
  | .mvl _ _ => 0b00011#5
  | .ldStack _ _ => 0b00100#5
  | .stStack _ _ => 0b00101#5
  | .inPort _ => 0b00110#5
  | .outPort _ => 0b00111#5
  | .cmp _ _ => 0b01000#5
  | .jmp _ => 0b01001#5
  | .jc _ => 0b01010#5
  | .jnc _ => 0b01011#5
  | .jz _ => 0b01100#5
  | .jnz _ => 0b01101#5
  | .call _ => 0b01110#5
  | .ret => 0b01111#5
  | .push _ => 0b10000#5
  | .pop _ => 0b10001#5
  | .add _ _ => 0b10010#5
  | .sub _ _ => 0b10011#5
  | .and _ _ => 0b10100#5
  | .or _ _ => 0b10101#5
  | .not _ => 0b10110#5
  | .xor _ _ => 0b10111#5
  | .shr _ _ => 0b11000#5
  | .shl _ _ => 0b11001#5
  | .clr _ => 0b11010#5
  | .lspImm _ => 0b11011#5
  | .lspReg _ => 0b11100#5
  | .rsp _ => 0b11101#5
  | .ldReg _ _ _ => 0b11110#5
  | .stReg _ _ _ => 0b11111#5

/-! The ignored bits of a word of each format are 0 (R72). -/

/-- The low bits of a word that is a multiple of a power of two. -/
theorem and_lowBits {w m : Word} (k : Nat) (hm : m.toNat = 2 ^ k - 1) (h : w.toNat % 2 ^ k = 0) : w &&& m = 0 :=
  BitVec.eq_of_toNat_eq (by rw [BitVec.toNat_and, hm, Nat.and_two_pow_sub_one_eq_mod, h]; rfl)

theorem formatN_ignored (op : Opcode) : formatN op &&& 0x07FF = 0 :=
  and_lowBits 11 rfl (by rw [formatN_toNat]; omega)

theorem formatR_ignored (op : Opcode) (a : Reg) : formatR op a &&& 0x00FF = 0 :=
  and_lowBits 8 rfl (by rw [formatR_toNat]; omega)

theorem formatRR_ignored (op : Opcode) (a b : Reg) : formatRR op a b &&& 0x001F = 0 :=
  and_lowBits 5 rfl (by rw [formatRR_toNat]; omega)

theorem formatA_ignored (op : Opcode) (t : Addr) : formatA op t &&& 0x0001 = 0 :=
  and_lowBits 1 rfl (by rw [formatA_toNat]; omega)

end Sys2Proof

namespace Sys2Proof.Laws

/-- The word of an instruction carries the opcode the table gives it (R62, R73) and 0 in every ignored bit (R72, D3). -/
def OpcodeField.Statement (i : Instr) : Prop := opcodeOf (encode i) = tableOpcode i ∧ encode i &&& ignoredBits i = 0

theorem OpcodeField.nop : OpcodeField.Statement .nop := ⟨opcodeOf_formatN _, formatN_ignored _⟩
theorem OpcodeField.mv (a b : Reg) : OpcodeField.Statement (.mv a b) := ⟨opcodeOf_formatRR _ _ _, formatRR_ignored _ _ _⟩
theorem OpcodeField.mvh (a : Reg) (imm : Byte) : OpcodeField.Statement (.mvh a imm) := ⟨opcodeOf_formatRI _ _ _, BitVec.and_zero⟩
theorem OpcodeField.mvl (a : Reg) (imm : Byte) : OpcodeField.Statement (.mvl a imm) := ⟨opcodeOf_formatRI _ _ _, BitVec.and_zero⟩
theorem OpcodeField.ldStack (a : Reg) (off : Byte) : OpcodeField.Statement (.ldStack a off) := ⟨opcodeOf_formatRI _ _ _, BitVec.and_zero⟩
theorem OpcodeField.stStack (a : Reg) (off : Byte) : OpcodeField.Statement (.stStack a off) := ⟨opcodeOf_formatRI _ _ _, BitVec.and_zero⟩
theorem OpcodeField.inPort (a : Reg) : OpcodeField.Statement (.inPort a) := ⟨opcodeOf_formatR _ _, formatR_ignored _ _⟩
theorem OpcodeField.outPort (a : Reg) : OpcodeField.Statement (.outPort a) := ⟨opcodeOf_formatR _ _, formatR_ignored _ _⟩
theorem OpcodeField.cmp (a b : Reg) : OpcodeField.Statement (.cmp a b) := ⟨opcodeOf_formatRR _ _ _, formatRR_ignored _ _ _⟩
theorem OpcodeField.jmp (addr : Addr) : OpcodeField.Statement (.jmp addr) := ⟨opcodeOf_formatA _ _, formatA_ignored _ _⟩
theorem OpcodeField.jc (addr : Addr) : OpcodeField.Statement (.jc addr) := ⟨opcodeOf_formatA _ _, formatA_ignored _ _⟩
theorem OpcodeField.jnc (addr : Addr) : OpcodeField.Statement (.jnc addr) := ⟨opcodeOf_formatA _ _, formatA_ignored _ _⟩
theorem OpcodeField.jz (addr : Addr) : OpcodeField.Statement (.jz addr) := ⟨opcodeOf_formatA _ _, formatA_ignored _ _⟩
theorem OpcodeField.jnz (addr : Addr) : OpcodeField.Statement (.jnz addr) := ⟨opcodeOf_formatA _ _, formatA_ignored _ _⟩
theorem OpcodeField.call (addr : Addr) : OpcodeField.Statement (.call addr) := ⟨opcodeOf_formatA _ _, formatA_ignored _ _⟩
theorem OpcodeField.ret : OpcodeField.Statement .ret := ⟨opcodeOf_formatN _, formatN_ignored _⟩
theorem OpcodeField.push (a : Reg) : OpcodeField.Statement (.push a) := ⟨opcodeOf_formatR _ _, formatR_ignored _ _⟩
theorem OpcodeField.pop (a : Reg) : OpcodeField.Statement (.pop a) := ⟨opcodeOf_formatR _ _, formatR_ignored _ _⟩
theorem OpcodeField.add (a b : Reg) : OpcodeField.Statement (.add a b) := ⟨opcodeOf_formatRR _ _ _, formatRR_ignored _ _ _⟩
theorem OpcodeField.sub (a b : Reg) : OpcodeField.Statement (.sub a b) := ⟨opcodeOf_formatRR _ _ _, formatRR_ignored _ _ _⟩
theorem OpcodeField.and (a b : Reg) : OpcodeField.Statement (.and a b) := ⟨opcodeOf_formatRR _ _ _, formatRR_ignored _ _ _⟩
theorem OpcodeField.or (a b : Reg) : OpcodeField.Statement (.or a b) := ⟨opcodeOf_formatRR _ _ _, formatRR_ignored _ _ _⟩
theorem OpcodeField.not (a : Reg) : OpcodeField.Statement (.not a) := ⟨opcodeOf_formatR _ _, formatR_ignored _ _⟩
theorem OpcodeField.xor (a b : Reg) : OpcodeField.Statement (.xor a b) := ⟨opcodeOf_formatRR _ _ _, formatRR_ignored _ _ _⟩
theorem OpcodeField.shr (a b : Reg) : OpcodeField.Statement (.shr a b) := ⟨opcodeOf_formatRR _ _ _, formatRR_ignored _ _ _⟩
theorem OpcodeField.shl (a b : Reg) : OpcodeField.Statement (.shl a b) := ⟨opcodeOf_formatRR _ _ _, formatRR_ignored _ _ _⟩
theorem OpcodeField.clr (a : Reg) : OpcodeField.Statement (.clr a) := ⟨opcodeOf_formatR _ _, formatR_ignored _ _⟩
theorem OpcodeField.lspImm (addr : Addr) : OpcodeField.Statement (.lspImm addr) := ⟨opcodeOf_formatA _ _, formatA_ignored _ _⟩
theorem OpcodeField.lspReg (a : Reg) : OpcodeField.Statement (.lspReg a) := ⟨opcodeOf_formatR _ _, formatR_ignored _ _⟩
theorem OpcodeField.rsp (a : Reg) : OpcodeField.Statement (.rsp a) := ⟨opcodeOf_formatR _ _, formatR_ignored _ _⟩
theorem OpcodeField.ldReg (a b : Reg) (off : Off5) : OpcodeField.Statement (.ldReg a b off) := ⟨opcodeOf_formatRRO _ _ _ _, BitVec.and_zero⟩
theorem OpcodeField.stReg (a b : Reg) (off : Off5) : OpcodeField.Statement (.stReg a b off) := ⟨opcodeOf_formatRRO _ _ _ _, BitVec.and_zero⟩

end Sys2Proof.Laws
end

