-- ==== Sys2Proof/Laws/Safety.lean ====
section
/-! SUPPORT. The laws of the terms the claims use: an answer with its next state changed, and instructions one after the other. -/

namespace Sys2Proof.Machine

@[simp] theorem mapNext_next (f : State → State) (t : State) : mapNext f (.next t) = .next (f t) := rfl

@[simp] theorem mapNext_fault (f : State → State) (p : Fault) : mapNext f (.fault p) = .fault p := rfl

@[simp] theorem mapNext_refused (f : State → State) (p : Refusal) : mapNext f (.refused p) = .refused p := rfl

/-- A store answers its next state changed by `f` when the rest of the instruction is followed by `f`. -/
theorem mapNext_storeThen (f rest : State → State) (s : State) (a : Addr) (v : Word) :
    mapNext f (s.storeThen a v rest) = s.storeThen a v (fun t => f (rest t)) := by
  unfold State.storeThen
  split <;> rfl

@[simp] theorem execAll_nil (s : State) : execAll [] s = .next s := rfl

/-- If the first instruction answers a next state, the others run from there. -/
theorem execAll_cons {i : Instr} {is : List Instr} {s t : State} (h : exec i s = .next t) :
    execAll (i :: is) s = execAll is t := by simp [execAll, h]

end Sys2Proof.Machine
end

