-- ==== Sys2Proof/Laws/Step.lean ====
section
/-! SUPPORT. What a step can do, said once. -/

namespace Sys2Proof.Machine

/-- A step that answers a next state either took a requested CPU reset or executed the fetched instruction. -/
theorem step_eq_next {s t : State} :
    step s = .next t ↔
      (s.resetRequest = true ∧ t = s.cpuReset) ∨
      (s.resetRequest = false ∧ ∃ w, s.fetchWord s.pc = some w ∧ exec (decode w) s = .next t) := by
  unfold step
  cases hr : s.resetRequest
  · cases hf : s.fetchWord s.pc <;> simp
  · simp [eq_comm]


end Sys2Proof.Machine
end

