-- ==== Sys2Proof/Machine/AsmText.lean ====
section
/-! DEFINITION. The text of assembly source (R78 to R83). The source gives no grammar (N25). What this file reads beyond the
forms the examples show, such as further blank characters, is a choice of the model, and log 9 lists every such choice. -/

namespace Sys2Proof.Asm

/-- The tokens of a line. -/
inductive Token where
  | word (cs : List Char)
  | str (bs : List Byte)
  | comma | colon | lbracket | rbracket | plus | minus
  deriving DecidableEq, Repr

/-- Where the reader of a line stands: inside a word or blank space, or inside quotes; what it has read, last first. -/
inductive LexMode where
  | word (acc : List Char)
  | str (acc : List Byte)
  deriving DecidableEq, Repr

/-- The characters of names, numbers, mnemonics and directives. -/
def isWordChar (c : Char) : Bool := c.isAlphanum || c == '_' || c == '.'

/-- The one-character tokens. -/
def punctuation : Char → Option Token
  | ',' => some .comma
  | ':' => some .colon
  | '[' => some .lbracket
  | ']' => some .rbracket
  | '+' => some .plus
  | '-' => some .minus
  | _ => none

/-- The escape characters read: newline and tab, which R192 names, the backslash and the quote (log 9). -/
def escape : Char → Option Byte
  | 'n' => some 0x0A
  | 't' => some 0x09
  | '\\' => some 0x5C
  | '"' => some 0x22
  | _ => none

/-- The word read so far, if there is one, comes before the tokens after it. -/
def flush (acc : List Char) (ts : List Token) : List Token :=
  match acc with
  | [] => ts
  | _ => .word acc.reverse :: ts

/-- Blank space: the space of R78. DESIGN CHOICE (log 9): a tab and a carriage return are blank too. -/
def isBlank (c : Char) : Bool := c == ' ' || c == '\t' || c == '\r'

/-- The tokens of a line; `#` starts a comment (R78).

DESIGN CHOICE (log 9): `#` starts no comment inside quotes, and any number of blanks, or none, may stand between two tokens.
So blanks may stand inside the brackets of a memory operand (`[ r1 + 5 ]`) and before the colon of a label (`done : jmp done`),
which no example shows. -/
def lex : LexMode → List Char → Except AsmError (List Token)
  | .word acc, [] => .ok (flush acc [])
  | .str _, [] => .error .text
  | .str acc, '\\' :: e :: cs =>
    match escape e with
    | some b => lex (.str (b :: acc)) cs
    | none => .error .text
  | .str acc, c :: cs =>
    if c = '"' then (lex (.word []) cs).map (fun ts => .str acc.reverse :: ts)
    else if c.toNat < 128 then lex (.str (BitVec.ofNat 8 c.toNat :: acc)) cs
    else .error .text
  | .word acc, c :: cs =>
    if c = '#' then .ok (flush acc [])
    else if isBlank c then (lex (.word []) cs).map (flush acc)
    else if c = '"' then (lex (.str []) cs).map (flush acc)
    else
      match punctuation c with
      | some t => (lex (.word []) cs).map (fun ts => flush acc (t :: ts))
      | none => if isWordChar c then lex (.word (c :: acc)) cs else .error .text

/-- The value of a digit, 16 for a character that is none. -/
def digitValue (c : Char) : Nat :=
  if '0' ≤ c && c ≤ '9' then c.toNat - '0'.toNat
  else if 'a' ≤ c && c ≤ 'f' then c.toNat - 'a'.toNat + 10
  else if 'A' ≤ c && c ≤ 'F' then c.toNat - 'A'.toNat + 10
  else 16

/-- The number of one or more digits in a base. -/
def numberIn (base : Nat) (cs : List Char) : Option Nat :=
  if cs.isEmpty || cs.any (fun c => decide (base ≤ digitValue c)) then none
  else some (cs.foldl (fun n c => base * n + digitValue c) 0)

/-- A number: hexadecimal after `0x`, else decimal (R80). -/
def number : List Char → Option Nat
  | '0' :: 'x' :: cs => numberIn 16 cs
  | cs => numberIn 10 cs

/-- A register name: `r` and ONE decimal digit, so that no register has a second spelling such as `r07` (R79); `fitsReg` then
refuses `r8` and `r9`. -/
def registerName : List Char → Option Nat
  | ['r', d] => numberIn 10 [d]
  | _ => none

/-- Whether a word is `r` and decimal digits, as `r7`, `r07` and `r10` are. -/
def looksLikeRegister : List Char → Bool
  | 'r' :: cs => (numberIn 10 cs).isSome
  | _ => false

/-- A tag's name. DESIGN CHOICE (log 9): a letter or underscore, then letters, digits and underscores, and neither `sp` nor a
word that looks like a register, whether there is such a register or not. -/
def isTagName (cs : List Char) : Bool :=
  (match cs with
    | c :: _ => c.isAlpha || c == '_'
    | [] => false)
  && cs.all (fun c => c.isAlphanum || c == '_')
  && !looksLikeRegister cs && !decide (cs = ['s', 'p'])

/-- The base and offset inside brackets (R81). -/
def bracketed (base : List Char) (off : Int) : Except AsmError Operand :=
  match registerName base with
  | some n => .ok (.atReg n off)
  | none => if base = ['s', 'p'] then .ok (.atSp off) else .error .text

/-- One operand (R79 to R82). -/
def operand : List Token → Except AsmError Operand
  | [.word w] =>
    match registerName w, number w with
    | some n, _ => .ok (.reg n)
    | none, some n => .ok (.num n)
    | none, none => if isTagName w then .ok (.tag w) else .error .text
  | [.lbracket, .word b, .rbracket] => bracketed b 0
  | [.lbracket, .word b, .plus, .word n, .rbracket] =>
    match number n with
    | some k => bracketed b k
    | none => .error .text
  | [.lbracket, .word b, .minus, .word n, .rbracket] =>
    match number n with
    | some k => bracketed b (-(k : Int))
    | none => .error .text
  | _ => .error .text

/-- The groups of tokens between commas. -/
def splitCommas : List Token → List (List Token)
  | [] => [[]]
  | .comma :: ts => [] :: splitCommas ts
  | t :: ts =>
    match splitCommas ts with
    | [] => [[t]]
    | g :: gs => (t :: g) :: gs

/-- The operands after a mnemonic, separated by commas (R78). -/
def operands : List Token → Except AsmError (List Operand)
  | [] => .ok []
  | ts => (splitCommas ts).mapM operand

/-- The mnemonics as they are spelled (R83). -/
def mnemonics : List (List Char × Mnemonic) :=
  [("nop".toList, .nop), ("ret".toList, .ret), ("push".toList, .push), ("pop".toList, .pop), ("in".toList, .inPort),
   ("out".toList, .outPort), ("clr".toList, .clr), ("lsp".toList, .lsp), ("rsp".toList, .rsp), ("not".toList, .not)]
  ++ [("mv".toList, .mv), ("add".toList, .add), ("sub".toList, .sub), ("cmp".toList, .cmp), ("and".toList, .and),
   ("or".toList, .or), ("xor".toList, .xor), ("shr".toList, .shr), ("shl".toList, .shl), ("mvh".toList, .mvh),
   ("mvl".toList, .mvl), ("ld".toList, .ld), ("st".toList, .st)]
  ++ [("call".toList, .call), ("jmp".toList, .jmp), ("jc".toList, .jc), ("jnc".toList, .jnc), ("jz".toList, .jz),
   ("jnz".toList, .jnz)]

/-- An instruction: a mnemonic and its operands (R78). -/
def instruction (m : List Char) (ts : List Token) : Except AsmError Item :=
  match mnemonics.find? (fun e => decide (e.1 = m)) with
  | some e => do return .instr e.2 (← operands ts)
  | none => .error .text

/-- A tag's name, or a rejection. -/
def tagName (cs : List Char) : Except AsmError Tag := if isTagName cs then .ok cs else .error .text

/-- A number, or a rejection. -/
def numberOf (cs : List Char) : Except AsmError Int :=
  match number cs with
  | some n => .ok n
  | none => .error .text

/-- A directive that may not carry a label: `.org`, `.string`, `.resv` (R191, R192, R194). -/
def placingDirective (d : List Char) (ts : List Token) : Except AsmError Item :=
  if d = ".org".toList then
    match ts with
    | [.word n] => do return .org (← numberOf n)
    | _ => .error .text
  else if d = ".string".toList then
    match ts with
    | [.word t, .str bs] => do return .string (← tagName t) bs
    | _ => .error .text
  else if d = ".resv".toList then
    match ts with
    | [.word n] => do return .resv none (← numberOf n)
    | [.word t, .word n] => do return .resv (some (← tagName t)) (← numberOf n)
    | _ => .error .text
  else .error .text

/-- What may follow a label: an instruction or `.ldtag`, which stands for two (R78, R193, log 9). -/
def labelled (m : List Char) (ts : List Token) : Except AsmError Item :=
  if m = ".ldtag".toList then
    match ts with
    | [.word r, .comma, .word t] =>
      match registerName r with
      | some n => do return .ldtag n (← tagName t)
      | none => .error .text
    | _ => .error .text
  else instruction m ts

/-- Whether a word is a directive that takes no label. -/
def isPlacing (m : List Char) : Bool :=
  decide (m = ".org".toList) || decide (m = ".string".toList) || decide (m = ".resv".toList)

/-- One line of source: nothing, or a line (R78). -/
def lineOf : List Token → Except AsmError (Option Line)
  | [] => .ok none
  | .word t :: .colon :: .word m :: ts => do return some ⟨some (← tagName t), ← labelled m ts⟩
  | .word m :: ts =>
    if isPlacing m then do return some ⟨none, ← placingDirective m ts⟩
    else do return some ⟨none, ← labelled m ts⟩
  | _ => .error .text

/-- The lines of a text. -/
def splitLines : List Char → List (List Char)
  | [] => [[]]
  | '\n' :: cs => [] :: splitLines cs
  | c :: cs =>
    match splitLines cs with
    | [] => [[c]]
    | l :: ls => (c :: l) :: ls

/-- The source lines of a text (R78). -/
def parse (text : List Char) : Except AsmError (List Line) := do
  let lines ← (splitLines text).mapM (fun l => do lineOf (← lex (.word []) l))
  return lines.filterMap id

/-- The image of a source text. -/
def assembleText (pack : StringPacking) (text : List Char) : Except AsmError Machine.Image := do
  assemble pack (← parse text)

end Sys2Proof.Asm
end

