-- ==== Sys2Proof/Tests/Slice0.lean ====
section
/-! SUPPORT. Tests. Every expected result is taken from `spec/`: the decode vectors V-D, the derived vectors V-N, V-REG, V-RR,
V-RI, V-LS, V-A, V-AS, the source's examples S<n>, or the encoding line of the instruction's rule. The last part holds, for
every obligation with hypotheses, a state and operands that meet them. -/

open Sys2Proof Sys2Proof.Machine Sys2Proof.Asm

namespace Sys2Proof.Tests

/-! WellFormed: an ill-formed number for each check (R71, R79, V-AS10), and the bounds themselves. -/

theorem test_illFormed_register : fitsReg 8 = false ∧ fitsReg 7 = true := by decide
theorem test_illFormed_imm8 : fitsImm8 0x100 = false ∧ fitsImm8 (-1) = false ∧ fitsImm8 0xFF = true := by decide
theorem test_illFormed_off5 : fitsOff5 16 = false ∧ fitsOff5 (-17) = false ∧ fitsOff5 15 = true ∧ fitsOff5 (-16) = true := by
  decide
theorem test_illFormed_off8 : fitsOff8 128 = false ∧ fitsOff8 (-129) = false ∧ fitsOff8 127 = true ∧ fitsOff8 (-128) = true := by
  decide
theorem test_illFormed_addr : fitsAddr 0x400 = false ∧ fitsAddr (-1) = false ∧ fitsAddr 0x3FF = true := by decide

/-! Decoding: for every constructor a word written out from the encoding line of its rule (R90 to R176, V-D). -/

theorem test_decode_formatN : decode 0b0000000000000000 = .nop ∧ decode 0b0000011111111111 = .nop
    ∧ decode 0b0111100000000000 = .ret ∧ decode 0b0111111111111111 = .ret := by decide
theorem test_decode_formatR : decode 0b1000001100000000 = .push 3 ∧ decode 0b1000100100000000 = .pop 1
    ∧ decode 0b0011010100000000 = .inPort 5 ∧ decode 0b0011111000000000 = .outPort 6
    ∧ decode 0b1101011100000000 = .clr 7 ∧ decode 0b1110011100000000 = .lspReg 7
    ∧ decode 0b1110101100000000 = .rsp 3 ∧ decode 0b1011000000000001 = .not 0 := by decide
theorem test_decode_formatRR : decode 0b0000111100000000 = .mv 7 0 ∧ decode 0b1001001001000000 = .add 2 2
    ∧ decode 0b1001100000100000 = .sub 0 1 ∧ decode 0b0100010010000000 = .cmp 4 4
    ∧ decode 0b1010000000100000 = .and 0 1 ∧ decode 0b1010100000100000 = .or 0 1
    ∧ decode 0b1011100000100000 = .xor 0 1 ∧ decode 0b1100000000100000 = .shr 0 1
    ∧ decode 0b1100101001000000 = .shl 2 2 := by decide
theorem test_decode_formatRI : decode 0b0001000001010101 = .mvh 0 0x55 ∧ decode 0b0001111110000000 = .mvl 7 0x80 := by decide
theorem test_decode_formatRSO : decode 0b0010000010000000 = .ldStack 0 (-128) ∧ decode 0b0010000001111111 = .ldStack 0 127
    ∧ decode 0b0010110100000001 = .stStack 5 1 := by decide
theorem test_decode_formatRRO : decode 0b1111000000111011 = .ldReg 0 1 (-5) ∧ decode 0b1111000000110000 = .ldReg 0 1 (-16)
    ∧ decode 0b1111111111111111 = .stReg 7 7 (-1) := by decide
theorem test_decode_formatA : decode 0b0111001001000110 = .call 0x123 ∧ decode 0b0100100000000110 = .jmp 0x003
    ∧ decode 0b0100100000000111 = .jmp 0x003 ∧ decode 0b0101001001000110 = .jc 0x123 ∧ decode 0b0101101001000110 = .jnc 0x123
    ∧ decode 0b0110001001000110 = .jz 0x123 ∧ decode 0b0110101001000110 = .jnz 0x123
    ∧ decode 0b1101111111111110 = .lspImm 0x3FF := by decide
theorem test_encode_samples : encode (.ldReg 0 1 (-5)) = 0xF03B ∧ encode (.stStack 5 1) = 0x2D01
    ∧ encode (.jmp 0x003) = 0x4806 ∧ encode (.lspReg 7) = 0xE700 ∧ encode .ret = 0x7800 := by decide
theorem test_decodeTableWord : decodeTableWord 16 0x9240 = some (.add 2 2) ∧ decodeTableWord 16 0 = some .nop := by decide

/-! One step of each instruction. -/

/-- A state at `pc`, `sp` with the flags, cells and registers given. -/
def at_ (pc sp : Addr) (c z : Bool) (mem : Memory) (rs : List (Reg × Word)) : State :=
  rs.foldl (fun s e => s.setReg e.1 e.2) { State.reset with pc := pc, sp := sp, c := c, z := z, mem := mem }

/-- What `view` shows of the state after one step on the word `w`. -/
def after {α : Type} (w : Nat) (s : State) (view : State → α) : Option α :=
  match step (s.withFetchWord 16 w) with
  | .next t => some (view t)
  | .fault _ => none
  | .refused _ => none

/-- V-N1, V-N2. -/
theorem test_nop : after 0x0000 (at_ 0x100 0x3FF true false [] []) (fun t => (t.pc, t.sp, t.c, t.z)) = some (0x101, 0x3FF, true, false)
    ∧ after 0x0000 (at_ 0x3FF 0x3FF true false [] []) State.pc = some 0x000 := by decide
/-- V-N4, V-N5. -/
theorem test_ret : after 0x7800 (at_ 0x010 0x1FF false false [(0x200, 0xFD23)] []) (fun t => (t.pc, t.sp)) = some (0x123, 0x200)
    ∧ after 0x7800 (at_ 0x010 0x3FF false false [(0x000, 0x0040)] []) (fun t => (t.pc, t.sp)) = some (0x040, 0x000) := by decide
/-- V-REG1, V-REG4. -/
theorem test_push : after 0x8000 (at_ 0 0x3FF false false [] [(0, 0x55AA)]) (fun t => (t.memRead 0x3FF, t.sp)) = some (0x55AA, 0x3FE)
    ∧ after 0x8000 (at_ 1 0x000 false false [] [(0, 0x1234)]) (fun t => (t.memRead 0x000, t.sp)) = some (0x1234, 0x3FF) := by
  decide
/-- V-REG5, V-REG6. -/
theorem test_pop : after 0x8900 (at_ 1 0x3FF false false [(0, 0x7777)] []) (fun t => (t.reg 1, t.sp)) = some (0x7777, 0x000)
    ∧ after 0x8A00 (at_ 1 0x1FF true false [(0x200, 0)] [(2, 0xFFFF)]) (fun t => (t.reg 2, t.sp, t.c, t.z))
      = some (0x0000, 0x200, true, false) := by decide
/-- V-REG9. -/
theorem test_in : after 0x3500 ((at_ 0 0 false false [] [(5, 0xFFFF)]).presentInput 0x0000) (fun t => (t.reg 5, t.z, t.inputs))
    = some (0x0000, false, []) := by decide
/-- V-REG11. -/
theorem test_out : after 0x3E00 { at_ 0 0 false false [] [] with outputs := [0x55AA] } State.outputs = some [0x55AA, 0x0000] := by
  decide
/-- V-REG12. -/
theorem test_clr : after 0xD000 (at_ 0 0 true false [] [(0, 0x1234)]) (fun t => (t.reg 0, t.c, t.z)) = some (0x0000, true, false) := by
  decide
/-- V-REG15, V-REG17. -/
theorem test_lspReg : after 0xE000 (at_ 0 0 false false [] [(0, 0xFCAA)]) State.sp = some 0x0AA
    ∧ after 0xE100 (at_ 0 0x100 false false [] [(1, 0x0400)]) State.sp = some 0x000 := by decide
/-- V-REG19, V-REG20. -/
theorem test_rsp : after 0xEB00 (at_ 0 0 false false [] [(3, 0xFFFF)]) (fun t => t.reg 3) = some 0x0000
    ∧ after 0xEB00 (at_ 0 0x2A5 false false [] [(3, 0xFFFF)]) (fun t => t.reg 3) = some 0x02A5 := by decide
/-- V-REG22, V-REG25. -/
theorem test_not : after 0xB000 (at_ 0 0 true true [] [(0, 0x00AA)]) (fun t => (t.reg 0, t.c, t.z)) = some (0xFF55, false, false)
    ∧ after 0xB000 (at_ 0 0 true false [] [(0, 0xFFFF)]) (fun t => (t.reg 0, t.c, t.z)) = some (0x0000, false, true) := by decide
/-- V-RR1. -/
theorem test_mv : after 0x0820 (at_ 0 0 true false [] [(0, 0x1111), (1, 0x0055)]) (fun t => (t.reg 0, t.reg 1, t.c, t.z))
    = some (0x0055, 0x0055, true, false) := by decide

/-- What a two-register instruction `w` on `r0 = x`, `r1 = y` leaves in `r0`, `c` and `z`. -/
def rr (w : Nat) (x y : Word) : Option (Word × Bool × Bool) :=
  after w (at_ 0 0 true true [] [(0, x), (1, y)]) (fun t => (t.reg 0, t.c, t.z))

/-- V-RR5, V-RR7. -/
theorem test_add : rr 0x9020 0xFFFF 0x0001 = some (0x0000, true, true) ∧ rr 0x9020 0x7FFF 0x0001 = some (0x8000, false, false) := by
  decide
/-- V-RR12, V-RR13. -/
theorem test_sub : rr 0x9820 0x0000 0x0001 = some (0xFFFF, true, false) ∧ rr 0x9820 0x8000 0x0001 = some (0x7FFF, false, false) := by
  decide
/-- V-RR22, V-RR24. -/
theorem test_cmp : rr 0x4020 0x8000 0x7FFF = some (0x8000, true, false) ∧ rr 0x4020 0x0001 0xFFFF = some (0x0001, false, false) := by
  decide
/-- V-RR29, V-RR30. -/
theorem test_and : rr 0xA020 0x0F0F 0x00FF = some (0x000F, false, false) ∧ rr 0xA020 0xFF00 0x00FF = some (0x0000, false, true) := by
  decide
/-- V-RR33, V-RR34. -/
theorem test_or : rr 0xA820 0x0F00 0x00F0 = some (0x0FF0, false, false) ∧ rr 0xA820 0x0000 0x0000 = some (0x0000, false, true) := by
  decide
/-- V-RR37, V-RR38. -/
theorem test_xor : rr 0xB820 0xFF00 0x0FF0 = some (0xF0F0, false, false) ∧ rr 0xB820 0xAAAA 0xAAAA = some (0x0000, false, true) := by
  decide
/-- V-RR42, V-RR49. -/
theorem test_shr : rr 0xC020 0x8000 0x000F = some (0x0001, false, false) ∧ rr 0xC020 0xFFFF 0x0100 = some (0x0000, false, true) := by
  decide
/-- V-RR52, V-RR58. -/
theorem test_shl : rr 0xC820 0x0001 0x000F = some (0x8000, false, false) ∧ rr 0xC820 0x00FF 0x8004 = some (0x0000, false, true) := by
  decide
/-- V-RI2. -/
theorem test_mvh : after 0x1000 (at_ 0 0 false false [] [(0, 0xFFFF)]) (fun t => t.reg 0) = some 0x00FF := by decide
/-- V-RI5, V-RI7. -/
theorem test_mvl : after 0x1800 (at_ 0 0 false false [] [(0, 0xFFFF)]) (fun t => t.reg 0) = some 0xFF00
    ∧ after 0x1800 (at_ 0 0 false false [] [(0, 0x00FF)]) (fun t => (t.reg 0, t.z)) = some (0x0000, false) := by decide
/-- V-LS7, V-LS9. -/
theorem test_ldReg : after 0xF03F (at_ 0 0 false false [(0x3FF, 0xBEEF)] [(1, 0x0000)]) (fun t => t.reg 0) = some 0xBEEF
    ∧ after 0xF120 (at_ 0 0 false false [(0x110, 0x0220)] [(1, 0x0110)]) (fun t => t.reg 1) = some 0x0220 := by decide
/-- V-LS14, V-LS16. -/
theorem test_stReg : after 0xF830 (at_ 0 0 false false [] [(0, 0x5A5A), (1, 0x0005)]) (fun t => t.memRead 0x3F5) = some 0x5A5A
    ∧ after 0xFA41 (at_ 0 0 false false [] [(2, 0x8123)]) (fun t => t.memRead 0x124) = some 0x8123 := by decide
/-- V-LS22, V-LS24. -/
theorem test_ldStack : after 0x2080 (at_ 0 0x050 false false [(0x3D0, 0xBEEF)] []) (fun t => (t.reg 0, t.sp)) = some (0xBEEF, 0x050)
    ∧ after 0x2301 (at_ 1 0x3FF false false [(0x000, 0xBEEF)] []) (fun t => (t.reg 3, t.sp)) = some (0xBEEF, 0x3FF) := by decide
/-- V-LS29, V-LS30. -/
theorem test_stStack : after 0x2D80 (at_ 0 0x000 false false [] [(5, 0x00FF)]) (fun t => t.memRead 0x380) = some 0x00FF
    ∧ after 0x2D7F (at_ 0 0x3FF false false [] [(5, 0x00FF)]) (fun t => (t.memRead 0x07E, t.sp)) = some (0x00FF, 0x3FF) := by decide
/-- V-A2, V-A3. -/
theorem test_call : after 0x7246 (at_ 0x0FF 0x200 false false [] []) (fun t => (t.memRead 0x200, t.sp, t.pc))
      = some (0x0100, 0x1FF, 0x123)
    ∧ after 0x7000 (at_ 0x3FF 0x000 false false [] []) (fun t => (t.memRead 0x000, t.sp, t.pc)) = some (0x0000, 0x3FF, 0x000) := by
  decide
/-- V-A6, V-A7. -/
theorem test_jmp : after 0x4A46 (at_ 0x010 0 false false [] []) State.pc = some 0x123
    ∧ after 0x4820 (at_ 0x010 0 false false [] []) State.pc = some 0x010 := by decide
/-- V-A10, V-A12. -/
theorem test_jc : after 0x5080 (at_ 4 0 true false [] []) State.pc = some 0x040
    ∧ after 0x5080 (at_ 4 0 false true [] []) State.pc = some 0x005 := by decide
/-- V-A13, V-A14. -/
theorem test_jnc : after 0x5880 (at_ 4 0 false false [] []) State.pc = some 0x040
    ∧ after 0x5880 (at_ 4 0 true false [] []) State.pc = some 0x005 := by decide
/-- V-A15, V-A16. -/
theorem test_jz : after 0x6080 (at_ 4 0 false true [] []) State.pc = some 0x040
    ∧ after 0x6080 (at_ 4 0 true false [] []) State.pc = some 0x005 := by decide
/-- V-A17, V-A20. -/
theorem test_jnz : after 0x6880 (at_ 4 0 true false [] []) State.pc = some 0x040
    ∧ after 0x6801 (at_ 0x3FF 0 false true [] []) State.pc = some 0x000 := by decide
/-- V-A22. -/
theorem test_lspImm : after 0xD8A0 (at_ 0 0x3FF false false [] []) (fun t => (t.sp, t.pc)) = some (0x050, 0x001) := by decide

/-! The assembler. -/

/-- V-AS1 to V-AS6. -/
theorem test_operand_shapes : assembleInstr [] .ld [.reg 0, .atReg 1 0] = .ok (.ldReg 0 1 0)
    ∧ assembleInstr [] .ld [.reg 0, .atSp 0] = .ok (.ldStack 0 0) ∧ assembleInstr [] .lsp [.reg 3] = .ok (.lspReg 3)
    ∧ assembleInstr [] .lsp [.num 3] = .ok (.lspImm 3) ∧ assembleInstr [] .st [.reg 7, .atReg 6 (-16)] = .ok (.stReg 7 6 (-16))
    ∧ assembleInstr [] .ld [.reg 4, .atSp (-1)] = .ok (.ldStack 4 (-1)) := by decide
set_option maxRecDepth 100000 in
/-- S2. -/
theorem test_source_call : assembleText onePerCell "call myfunc\ndone: jmp done\n\nmyfunc: add r0, r1\nret".toList
    = .ok [(0, 0x7004), (1, 0x4802), (2, 0x9020), (3, 0x7800)] := by decide
set_option maxRecDepth 100000 in
/-- S36. -/
theorem test_source_resv : assembleText onePerCell ".org 0x100\n.resv 25\n.resv tagname 25\nnop # address 0x132".toList
    = .ok [(0x132, 0x0000)] := by decide
set_option maxRecDepth 100000 in
/-- V-AS7. -/
theorem test_source_org : assembleText onePerCell ".org 0x3FE\na: nop\nb: jmp a".toList
    = .ok [(0x3FE, 0x0000), (0x3FF, 0x4FFC)] := by decide
set_option maxRecDepth 100000 in
/-- V-AS8. -/
theorem test_source_ldtag : assembleText onePerCell ".ldtag r3, t\n.org 0x2A5\nt: nop".toList
    = .ok [(0, 0x1302), (1, 0x1BA5), (0x2A5, 0x0000)] := by decide
set_option maxRecDepth 100000 in
/-- V-AS10: each is rejected. -/
theorem test_source_rejected : assembleText onePerCell "mvl r0, 0x100".toList = .error .range
    ∧ assembleText onePerCell "ld r0, [r1+16]".toList = .error .range
    ∧ assembleText onePerCell "ld r0, [sp-129]".toList = .error .range
    ∧ assembleText onePerCell "jmp 0x400".toList = .error .range
    ∧ assembleText onePerCell "push r8".toList = .error .range := by decide
set_option maxRecDepth 100000 in
/-- R79: the registers are written `r0` to `r7`, so `r07` and `r00` name none. -/
theorem test_register_spelling : assembleText onePerCell "push r7".toList = .ok [(0, 0x8700)]
    ∧ assembleText onePerCell "push r07".toList = .error .text
    ∧ assembleText onePerCell "mv r00, r1".toList = .error .text := by decide
/-- R192: the three packings it names, on the text `Hi` with its terminating zero. -/
theorem test_string_packings : onePerCell (stringBytes [0x48, 0x69]) = [0x0048, 0x0069, 0x0000]
    ∧ twoPerCellHighFirst (stringBytes [0x48, 0x69]) = [0x4869, 0x0000]
    ∧ twoPerCellLowFirst (stringBytes [0x48, 0x69]) = [0x6948, 0x0000] := by decide

/-! Witnesses: for each obligation with hypotheses, a state and operands that meet them, at the bounds of each clause. -/

/-- A state about to execute `push r0`, with a value presented on the input port. -/
def pushing : State :=
  { at_ 0x010 0x3FF true false [(0x010, 0x8000), (0x200, 0x0040)] [(0, 0x1234), (1, 0x0110)] with inputs := [0x00FF, 0x0001] }

/-- The same under `split`. -/
def splitState : State := { pushing with memOrg := .split, rom := [(0x010, 0x8000)] }

/-- A state whose cells up to 0x0FF are read-only, with `sp` in the last of them. -/
def guarded : State := { at_ 0x010 0x0FF false false [(0x010, 0x0000)] [(1, 0x00F0), (2, 0x0100)] with readOnly := [⟨0x000, 0x0FF⟩] }

theorem test_witness_CpuResetKeepsMemoryAndOutputs : pushing.requestReset.resetRequest = true := rfl
theorem test_witness_StepRunsDecodedInstruction :
    (pushing.resetRequest = false ∧ pushing.fetchWord pushing.pc = some 0x8000)
    ∧ splitState.resetRequest = false ∧ splitState.fetchWord splitState.pc = some 0x8000 := ⟨⟨rfl, rfl⟩, rfl, rfl⟩
theorem test_witness_UndefinedFetchFaults :
    State.reset.resetRequest = false ∧ State.reset.fetchWord State.reset.pc = none := ⟨rfl, rfl⟩
/-- The machine right after initialization under `split`, with a word at 0x000 of both arrays. -/
def splitReset : State := { State.reset with memOrg := .split, mem := [(0x000, 0xFFFF)], rom := [(0x000, 0x1055)] }

theorem test_witness_ImageIsFetched :
    ([((0x000 : Addr), (0x1055 : Word)), (0x3FF, 0x4FFE)].map Prod.fst).Nodup
    ∧ ((0x000 : Addr), (0x1055 : Word)) ∈ [((0x000 : Addr), (0x1055 : Word)), (0x3FF, 0x4FFE)]
    ∧ ((0x3FF : Addr), (0x4FFE : Word)) ∈ [((0x000 : Addr), (0x1055 : Word)), (0x3FF, 0x4FFE)] := by decide
theorem test_witness_initialized : State.reset = { State.reset with memOrg := State.reset.memOrg } := rfl
theorem test_witness_FirstInstructionStandsAtZero :
    (pushing.resetRequest = false ∧ ∃ t, step pushing = .next t)
    ∧ (splitReset = { State.reset with mem := splitReset.mem, rom := splitReset.rom, memOrg := splitReset.memOrg }
      ∧ splitReset.fetchWord 0x000 = some 0x1055)
    ∧ (State.cpuReset (at_ 5 5 true true [(0, 0x1055)] [])).fetchWord 0x000 = some 0x1055 := ⟨⟨rfl, _, rfl⟩, ⟨rfl, rfl⟩, rfl⟩
theorem test_witness_StackPointerHoldsNextFreeCell :
    (0 < (at_ 0 1 false false [] []).sp.toNat ∧ (∃ t, exec (.push 0) (at_ 0 1 false false [] []) = .next t)
      ∧ (at_ 0x3FE 1 false false [] []).pc.toNat < 1023 ∧ ∃ t, exec (.call 0) (at_ 0x3FE 1 false false [] []) = .next t)
    ∧ (0 < pushing.sp.toNat ∧ ∃ t, exec (.push 0) pushing = .next t)
    ∧ (at_ 0 0x3FE false false [] []).sp.toNat < 1023 ∧ (∃ t, exec (.pop 0) (at_ 0 0x3FE false false [] []) = .next t)
    ∧ ∃ t, exec .ret (at_ 0 0x000 false false [] []) = .next t :=
  ⟨⟨by decide, ⟨_, rfl⟩, by decide, _, rfl⟩, ⟨by decide, _, rfl⟩, by decide, ⟨_, rfl⟩, _, rfl⟩
theorem test_witness_EndedRunStandsStill :
    (at_ 0x010 0 false false [(0x010, 0x4820)] []).resetRequest = false ∧ runEnded (at_ 0x010 0 false false [(0x010, 0x4820)] []) :=
  ⟨rfl, 0x4820, rfl, rfl⟩
theorem test_witness_StepKeepsInvariant : (pushing.Inv ∧ ∃ t, step pushing = .next t)
    ∧ splitState.Inv ∧ ∃ t, step splitState = .next t := ⟨⟨⟨rfl, rfl⟩, _, rfl⟩, ⟨rfl, rfl⟩, _, rfl⟩
theorem test_witness_EnvironmentKeepsInvariant : pushing.Inv := ⟨rfl, rfl⟩
theorem test_witness_OnlyReadOnlyStoresStop :
    (storeAddress (.stReg 0 2 0) guarded = some 0x100 ∧ guarded.writable 0x100 = true)
    ∧ storeAddress .nop guarded = none
    ∧ (storeAddress (.stReg 0 1 15) guarded = some 0x0FF ∧ guarded.writable 0x0FF = false)
    ∧ (storeAddress (.stStack 0 0) guarded = some 0x0FF ∧ guarded.writable 0x0FF = false)
    ∧ (storeAddress (.push 0) guarded = some 0x0FF ∧ guarded.writable 0x0FF = false)
    ∧ storeAddress (.call 0) guarded = some 0x0FF ∧ guarded.writable 0x0FF = false := by decide
theorem test_witness_StepKeepsReadOnlyMemory :
    (∃ t, step guarded = .next t) ∧ guarded.writable 0x000 = false ∧ guarded.writable 0x0FF = false := ⟨⟨_, rfl⟩, by decide⟩
theorem test_witness_OutputHistoryOnlyGrows :
    (∃ t, step pushing = .next t) ∧ ∃ t, step (pushing.withFetchWord 16 0x3800) = .next t := ⟨⟨_, rfl⟩, _, rfl⟩
theorem test_witness_NineInstructionsWriteBothFlags :
    ((∃ t, exec (.clr 0) pushing = .next t) ∧ writesFlags (.clr 0) = false)
    ∧ (∃ t, exec (.add 0 1) pushing = .next t) ∧ writesFlags (.add 0 1) = true := ⟨⟨⟨_, rfl⟩, rfl⟩, ⟨_, rfl⟩, rfl⟩
theorem test_witness_ConditionalJumpsAloneReadFlags :
    ((readsCarry (.jc 0x040) → true = pushing.c) ∧ (readsZero (.jc 0x040) → true = pushing.z))
    ∧ ((readsCarry (.jz 0x040) → false = pushing.c) ∧ (readsZero (.jz 0x040) → false = pushing.z))
    ∧ (readsCarry (.push 0) → true = guarded.c) ∧ (readsZero (.push 0) → true = guarded.z) :=
  ⟨⟨fun _ => rfl, (fun ⟨_, h⟩ => by cases h <;> contradiction)⟩,
    ⟨(fun ⟨_, h⟩ => by cases h <;> contradiction), fun _ => rfl⟩,
    (fun ⟨_, h⟩ => by cases h <;> contradiction), fun ⟨_, h⟩ => by cases h <;> contradiction⟩
theorem test_witness_RegisterFrame : (∃ t, exec (.add 0 1) pushing = .next t) ∧ destination (.add 0 1) ≠ some 1 :=
  ⟨⟨_, rfl⟩, by decide⟩
theorem test_witness_MemoryFrame : (∃ t, exec (.push 0) pushing = .next t)
    ∧ storeAddress (.push 0) pushing ≠ some 0x3FE ∧ storeAddress (.push 0) pushing ≠ some 0x000 := ⟨⟨_, rfl⟩, by decide⟩
theorem test_witness_StackPointerFrame : (∃ t, exec (.push 0) (at_ 0 0x000 false false [] []) = .next t)
    ∧ (∃ t, exec (.pop 0) pushing = .next t) ∧ (∃ t, exec (.lspImm 0) pushing = .next t)
    ∧ (∃ t, exec (.lspReg 0) pushing = .next t) ∧ ∃ t, exec .nop pushing = .next t :=
  ⟨⟨_, rfl⟩, ⟨_, rfl⟩, ⟨_, rfl⟩, ⟨_, rfl⟩, _, rfl⟩
theorem test_witness_PortAndPlatformFrame : (∃ t, exec .nop pushing = .next t)
    ∧ (∀ a, Instr.nop ≠ .inPort a) ∧ ∀ a, Instr.nop ≠ .outPort a := ⟨⟨_, rfl⟩, (fun _ => by simp), fun _ => by simp⟩
theorem test_witness_ProgramCounterSequence :
    ((∃ t, exec (.jc 0x040) pushing = .next t) ∧ transferTarget (.jc 0x040) pushing = some 0x040)
    ∧ (∃ t, exec .nop (at_ 0x3FF 0 false false [] []) = .next t)
    ∧ transferTarget .nop (at_ 0x3FF 0 false false [] []) = none := ⟨⟨⟨_, rfl⟩, rfl⟩, ⟨_, rfl⟩, rfl⟩
theorem test_witness_IgnoredBitsDoNotMatter :
    (0x0000 : Word) &&& ~~~ignoredBits (decode 0x0000) = 0x07FF &&& ~~~ignoredBits (decode 0x0000) := by decide
theorem test_witness_ignoredRanges : 0 < 2048 ∧ 2047 < 2048 ∧ 0 < 256 ∧ 255 < 256 ∧ 0 < 32 ∧ 31 < 32 ∧ 0 < 2 ∧ 1 < 2 := by decide
theorem test_witness_ImmediateAndOffsetWords :
    ((-128 : Int) ≤ -128 ∧ (-128 : Int) ≤ 127) ∧ ((-128 : Int) ≤ 127 ∧ (127 : Int) ≤ 127)
    ∧ ((-16 : Int) ≤ -16 ∧ (-16 : Int) ≤ 15) ∧ (-16 : Int) ≤ 15 ∧ (15 : Int) ≤ 15 := by decide
theorem test_witness_stackTop : (0x000 : Addr).toNat = (pushing.sp.toNat + 1) % 1024
    ∧ (0x001 : Addr).toNat = ((at_ 0 0x000 false false [] []).sp.toNat + 1) % 1024 := by decide
theorem test_witness_writableStack : pushing.writable pushing.sp = true
    ∧ (at_ 0 0x000 false false [] []).writable 0x000 = true := by decide
theorem test_witness_InDeliversPresentedValue : pushing.inputs = 0x00FF :: [0x0001] ∧ guarded.inputs = [] := ⟨rfl, rfl⟩
theorem test_witness_bitIndex : 0 < 16 ∧ 15 < 16 := by decide
theorem test_witness_LoadsReadBasePlusOffset :
    (((0x00E : Addr).toNat : Int) = (((at_ 0 0 false false [] [(1, 0xFFFF)]).reg 1).toNat % 1024 + (15 : Off5).toInt) % 1024)
    ∧ (((0x3F0 : Addr).toNat : Int) = (((at_ 0 0 false false [] [(1, 0x0000)]).reg 1).toNat % 1024 + (-16 : Off5).toInt) % 1024)
    ∧ (((0x07E : Addr).toNat : Int) = ((at_ 0 0x3FF false false [] []).sp.toNat + (127 : Byte).toInt) % 1024)
    ∧ ((0x380 : Addr).toNat : Int) = ((at_ 0 0x000 false false [] []).sp.toNat + (-128 : Byte).toInt) % 1024 := by decide
theorem test_witness_StoresWriteBasePlusOffset :
    ((((0x10F : Addr).toNat : Int) = ((guarded.reg 2).toNat % 1024 + (15 : Off5).toInt) % 1024) ∧ guarded.writable 0x10F = true)
    ∧ (((0x100 : Addr).toNat : Int) = (guarded.sp.toNat + (1 : Byte).toInt) % 1024) ∧ guarded.writable 0x100 = true := by decide
theorem test_witness_RetResumesAfterCall :
    ∃ t, exec (.call 0x020) pushing = .next t ∧ t.sp = t.sp ∧ t.memRead pushing.sp = t.memRead pushing.sp := ⟨_, rfl, rfl, rfl⟩
theorem test_witness_PopUndoesPush : ∃ t, exec (.push 0) pushing = .next t := ⟨_, rfl⟩
theorem test_witness_PushesLieDownwards : ([] : List Reg).length ≤ 1024 ∧ (List.replicate 1024 (7 : Reg)).length ≤ 1024
    ∧ (∀ a, State.reset.writable a = true) ∧ 0 < [(7 : Reg)].length := ⟨by simp, Nat.le_of_eq List.length_replicate, fun _ => rfl, by simp⟩
theorem test_witness_LoadAfterStore : (∃ t, exec (.stReg 0 1 15) pushing = .next t)
    ∧ (∃ t, exec (.stStack 0 127) pushing = .next t) ∧ ∃ t, exec (.stReg 0 1 (-16)) splitState = .next t :=
  ⟨⟨_, rfl⟩, ⟨_, rfl⟩, _, rfl⟩
theorem test_witness_FetchSeesStore :
    ((∃ t, exec (.push 0) pushing = .next t) ∧ storeAddress (.push 0) pushing = some 0x3FF ∧ pushing.memOrg = .unified)
    ∧ (∃ t, exec (.push 0) splitState = .next t) ∧ storeAddress (.push 0) splitState = some 0x3FF
      ∧ splitState.memOrg = .split := ⟨⟨⟨_, rfl⟩, rfl, rfl⟩, ⟨_, rfl⟩, rfl, rfl⟩
theorem test_witness_AssembledAddressesRise :
    assemble onePerCell [⟨none, .org 0x3FE⟩, ⟨none, .instr .nop []⟩, ⟨none, .instr .ret []⟩]
      = .ok [(0x3FE, 0x0000), (0x3FF, 0x7800)] := by decide
theorem test_witness_OutOfRangeOperandsRejected : (7 < 8 ∧ 0 < 8)
    ∧ ((-1 : Int) < 0 ∨ (255 : Int) < -1) ∧ ((256 : Int) < 0 ∨ (255 : Int) < 256)
    ∧ ((-17 : Int) < -16 ∨ (15 : Int) < -17) ∧ ((16 : Int) < -16 ∨ (15 : Int) < 16)
    ∧ ((-129 : Int) < -128 ∨ (127 : Int) < -129) ∧ ((128 : Int) < -128 ∨ (127 : Int) < 128)
    ∧ ((-1 : Int) < 0 ∨ (1023 : Int) < -1) ∧ ((1024 : Int) < 0 ∨ (1023 : Int) < 1024)
    ∧ Mnemonic.call ∈ [Mnemonic.call, .jmp, .jc, .jnc, .jz, .jnz, .lsp] := by decide

end Sys2Proof.Tests
end

/-! PROOFS of the family `10_state.md`: registers, `pc` and `sp` at reset, the instruction a step executes, the stack pointer. -/

namespace Sys2Proof.Machine

/-! The state right after initialization and after CPU reset (R21, R23, R27, R38). -/

@[simp] theorem State.reset_regs : State.reset.regs = Vector.replicate 8 0x0000 := rfl
@[simp] theorem State.reset_pc : State.reset.pc = 0x000 := rfl
@[simp] theorem State.reset_sp : State.reset.sp = 0x3FF := rfl
@[simp] theorem State.reset_resetRequest : State.reset.resetRequest = false := rfl

/-- Where the whole register file is 0x0000, every register reads 0x0000. -/
theorem State.reg_of_regs_eq_replicate {s : State} (h : s.regs = Vector.replicate 8 0x0000) (r : Reg) : s.reg r = 0x0000 := by
  simp [State.reg, h]

@[simp] theorem State.reg_reset (r : Reg) : State.reset.reg r = 0x0000 :=
  State.reg_of_regs_eq_replicate State.reset_regs r

@[simp] theorem State.reg_cpuReset (s : State) (r : Reg) : s.cpuReset.reg r = 0x0000 :=
  State.reg_of_regs_eq_replicate s.cpuReset_regs r

/-! The instruction a step executes (R9, R23). -/

/-- With no reset requested and a word at `pc`, the step is the meaning of the instruction that word decodes to. -/
theorem step_eq_exec {s : State} {w : Word} (hr : s.resetRequest = false) (hf : s.fetchWord s.pc = some w) :
    step s = exec (decode w) s := by
  simp [step, hr, hf]

/-- A step that is no reset executed the instruction at `pc`. -/
theorem exec_of_step_eq_next {s t : State} (hr : s.resetRequest = false) (h : step s = .next t) :
    ∃ w, s.fetchWord s.pc = some w ∧ exec (decode w) s = .next t := by
  simpa [hr] using step_eq_next.1 h

/-! The stack (R27): what `push` and `call` do to memory and `sp`, and what `pop` and `ret` do to `sp`. -/

/-- Below 0x3FF an address is followed by the next number. -/
theorem addr_add_one_toNat {a : Addr} (h : a.toNat < 1023) : (a + 1).toNat = a.toNat + 1 := by
  bv_omega

/-- Above 0x000 an address is preceded by the number before it. -/
theorem addr_sub_one_toNat {a : Addr} (h : 0 < a.toNat) : (a - 1).toNat + 1 = a.toNat := by
  bv_omega

/-- A store changes no cell but its own. -/
theorem sameMemoryExcept_memWrite (s : State) (a : Addr) (v : Word) : SameMemoryExcept a s (s.memWrite a v) :=
  fun x hx => ⟨by simp [State.memRead_memWrite, hx], by simp [State.fetchWord_memWrite, hx]⟩

/-- The stack part of `push` and `call`: `v` goes to the cell at `sp`, no other cell changes, and `sp` is decremented. -/
structure PushesWord (v : Word) (s t : State) : Prop where
  sp_eq : t.sp = s.sp - 1
  memRead_oldSp : t.memRead s.sp = v
  sameOtherCells : SameMemoryExcept s.sp s t

/-- Storing at `sp` and decrementing it pushes the word. -/
theorem pushesWord_memWrite_setSp (s : State) (v : Word) :
    PushesWord v s ((s.memWrite s.sp v).setSp (s.sp - 1)) where
  sp_eq := rfl
  memRead_oldSp := by simp [State.memRead_memWrite]
  sameOtherCells := sameMemoryExcept_memWrite s s.sp v

/-- The increment of `pc` touches nothing that a pushed word is about. -/
theorem PushesWord.advance {v : Word} {s t : State} (h : PushesWord v s t) : PushesWord v s t.advance :=
  ⟨h.sp_eq, h.memRead_oldSp, h.sameOtherCells⟩

/-- A jump touches nothing that a pushed word is about. -/
theorem PushesWord.jumpTo {v : Word} {s t : State} (h : PushesWord v s t) (target : Addr) :
    PushesWord v s (t.jumpTo target) :=
  ⟨h.sp_eq, h.memRead_oldSp, h.sameOtherCells⟩

/-- A `push` that completes pushes its register. -/
theorem pushesWord_of_exec_push {s t : State} {a : Reg} (h : exec (.push a) s = .next t) : PushesWord (s.reg a) s t := by
  rw [exec_push, State.storeThen_eq_next] at h
  obtain ⟨-, rfl⟩ := h
  exact (pushesWord_memWrite_setSp s _).advance

/-- A `call` that completes pushes the address after it. -/
theorem pushesWord_of_exec_call {s t : State} {target : Addr} (h : exec (.call target) s = .next t) :
    PushesWord (zext16 (s.pc + 1)) s t := by
  rw [exec_call, State.storeThen_eq_next] at h
  obtain ⟨-, rfl⟩ := h
  exact (pushesWord_memWrite_setSp s _).jumpTo target

/-- Above 0x000 a pushed word takes one from `sp`. -/
theorem PushesWord.sp_toNat_add_one {v : Word} {s t : State} (h : PushesWord v s t) (hs : 0 < s.sp.toNat) :
    t.sp.toNat + 1 = s.sp.toNat := by
  rw [h.sp_eq, addr_sub_one_toNat hs]

/-- The word pushed last lies at `sp + 1`. -/
theorem PushesWord.memRead_sp_add_one {v : Word} {s t : State} (h : PushesWord v s t) : t.memRead (t.sp + 1) = v := by
  rw [h.sp_eq, BitVec.sub_add_cancel, h.memRead_oldSp]

/-- A `pop` increments `sp`, modulo 2^10. -/
theorem sp_of_exec_pop {s t : State} {a : Reg} (h : exec (.pop a) s = .next t) : t.sp = s.sp + 1 := by
  rw [exec_pop] at h
  cases h
  rfl

/-- A `ret` increments `sp`, modulo 2^10. -/
theorem sp_of_exec_ret {s t : State} (h : exec .ret s = .next t) : t.sp = s.sp + 1 := by
  rw [exec_ret] at h
  cases h
  rfl

/-! The obligations. -/

/-- Settles O1: the register file is eight times 0x0000 in both states. -/
theorem generalRegistersResetToZero : Obligations.GeneralRegistersResetToZero :=
  ⟨State.reg_reset, State.reg_cpuReset⟩

/-- Settles O7: both resets leave `pc` at 0x000 and no reset requested, so the step after them executes the word fetched from
0x000. -/
theorem firstInstructionStandsAtZero : Obligations.FirstInstructionStandsAtZero := by
  refine ⟨fun s => s.pc.isLt, rfl, fun _ => rfl, fun _ _ hr => exec_of_step_eq_next hr, ?initialization, ?cpuReset⟩
  case initialization =>
    intro s w hs hw
    have hr : s.resetRequest = false := congrArg State.resetRequest hs
    have hpc : s.pc = 0x000 := congrArg State.pc hs
    exact step_eq_exec hr (hpc ▸ hw)
  case cpuReset =>
    intro s w hw
    exact step_eq_exec s.cpuReset_resetRequest hw

/-- Settles O46: `push` and `call` push a word in the same sense (`PushesWord`), and away from the two ends of the address
range the decrement and the increment modulo 2^10 are those of the numbers. -/
theorem stackPointerHoldsNextFreeCell : Obligations.StackPointerHoldsNextFreeCell := by
  refine ⟨fun s => s.sp.isLt, rfl, fun _ => rfl, ?push, ?call, ?popOrRet⟩
  case push =>
    intro s t a hs h
    have hp := pushesWord_of_exec_push h
    exact ⟨hp.sp_toNat_add_one hs, hp.memRead_sp_add_one, hp.sameOtherCells⟩
  case call =>
    intro s t target hs hpc h
    have hp := pushesWord_of_exec_call h
    refine ⟨hp.sp_toNat_add_one hs, ?_, hp.sameOtherCells⟩
    rw [hp.memRead_sp_add_one, zext16_toNat, addr_add_one_toNat hpc]
    omega
  case popOrRet =>
    intro s t i hs hi h
    have hsp : t.sp = s.sp + 1 := by
      obtain ⟨a, rfl⟩ | rfl := hi
      · exact sp_of_exec_pop h
      · exact sp_of_exec_ret h
    rw [hsp, addr_add_one_toNat hs]

end Sys2Proof.Machine

/-! PROOFS of the family 'other': the whole-machine rules. Every instruction answers either the one state it leaves when it
completes (`completed`) or the refusal of its store (`exec_eq`), so each frame is a fact about `completed`. -/

namespace Sys2Proof.Machine

/-! What an instruction answers, in one form for all 32 (R9, R50). -/

/-- A branch is a jump: to the target, or to the next cell. -/
theorem State.branch_eq_jumpTo (s : State) (taken : Bool) (target : Addr) :
    s.branch taken target = s.jumpTo (if taken then target else s.pc + 1) := by
  cases taken <;> rfl

/-- The state an instruction leaves when it completes. -/
def completed (i : Instr) (s : State) : State :=
  match i with
  | .nop => s.advance
  | .ret => (s.setSp (s.sp + 1)).jumpTo (low10 (s.memRead (s.sp + 1)))
  | .push a => ((s.memWrite s.sp (s.reg a)).setSp (s.sp - 1)).advance
  | .pop a => ((s.setReg a (s.memRead (s.sp + 1))).setSp (s.sp + 1)).advance
  | .inPort a => (s.consumeInput.setReg a s.nextInput).advance
  | .outPort a => (s.portOut (s.reg a)).advance
  | .clr a => (s.setReg a 0x0000).advance
  | .lspReg a => (s.setSp (low10 (s.reg a))).advance
  | .rsp a => (s.setReg a (zext16 s.sp)).advance
  | .not a => (s.setLogic a (s.reg a ^^^ 0xFFFF)).advance
  | .mv a b => (s.setReg a (s.reg b)).advance
  | .add a b =>
    ((s.setReg a (s.reg a + s.reg b)).setFlags (addCarry (s.reg a) (s.reg b)) (isZero (s.reg a + s.reg b))).advance
  | .sub a b =>
    ((s.setReg a (s.reg a - s.reg b)).setFlags (subBorrow (s.reg a) (s.reg b)) (isZero (s.reg a - s.reg b))).advance
  | .cmp a b => (s.setFlags (cmpGreater (s.reg a) (s.reg b)) (cmpEqual (s.reg a) (s.reg b))).advance
  | .and a b => (s.setLogic a (s.reg a &&& s.reg b)).advance
  | .or a b => (s.setLogic a (s.reg a ||| s.reg b)).advance
  | .xor a b => (s.setLogic a (s.reg a ^^^ s.reg b)).advance
  | .shr a b => (s.setLogic a (shiftRight (s.reg a) (s.reg b))).advance
  | .shl a b => (s.setLogic a (shiftLeft (s.reg a) (s.reg b))).advance
  | .mvh a imm => (s.setReg a (withHighByte (s.reg a) imm)).advance
  | .mvl a imm => (s.setReg a (withLowByte (s.reg a) imm)).advance
  | .ldReg a b off => (s.setReg a (s.memRead (eaReg s b off))).advance
  | .ldStack a off => (s.setReg a (s.memRead (eaStack s off))).advance
  | .stReg a b off => (s.memWrite (eaReg s b off) (s.reg a)).advance
  | .stStack a off => (s.memWrite (eaStack s off) (s.reg a)).advance
  | .call target => ((s.memWrite s.sp (zext16 (s.pc + 1))).setSp (s.sp - 1)).jumpTo target
  | .jmp target => s.jumpTo target
  | .jc target => s.jumpTo (if s.c then target else s.pc + 1)
  | .jnc target => s.jumpTo (if !s.c then target else s.pc + 1)
  | .jz target => s.jumpTo (if s.z then target else s.pc + 1)
  | .jnz target => s.jumpTo (if !s.z then target else s.pc + 1)
  | .lspImm addr => (s.setSp addr).advance

/-- The answer to a store address: a refusal where it is read-only, else the state given. -/
def guardStore (s t : State) : Option Addr → Result
  | none => .next t
  | some a => if s.writable a then .next t else .refused (.storeToReadOnly a)

/-- Every instruction answers the state it leaves, but that a store to a read-only address is refused. -/
theorem exec_eq (i : Instr) (s : State) : exec i s = guardStore s (completed i s) (storeAddress i s) := by
  cases i with
  | jc target => exact congrArg _ (s.branch_eq_jumpTo s.c target)
  | jnc target => exact congrArg _ (s.branch_eq_jumpTo (!s.c) target)
  | jz target => exact congrArg _ (s.branch_eq_jumpTo s.z target)
  | jnz target => exact congrArg _ (s.branch_eq_jumpTo (!s.z) target)
  | _ => rfl

/-- An instruction completes exactly when the cell it stores to, if any, is writable. -/
theorem exec_eq_next_iff {i : Instr} {s t : State} :
    exec i s = .next t ↔ (∀ a, storeAddress i s = some a → s.writable a = true) ∧ completed i s = t := by
  rw [exec_eq]
  cases storeAddress i s with
  | none => simp [guardStore]
  | some a => by_cases h : s.writable a = true <;> simp [guardStore, h]

theorem completed_of_exec {i : Instr} {s t : State} (h : exec i s = .next t) : completed i s = t :=
  (exec_eq_next_iff.1 h).2

/-! Memory: an instruction writes its one cell and no other (R46, R47). -/

theorem completed_mem_of_storeAddress_none {i : Instr} {s : State} (h : storeAddress i s = none) :
    (completed i s).mem = s.mem := by
  cases i with
  | push | call | stReg | stStack => simp [storeAddress] at h
  | _ => rfl

theorem completed_mem_of_storeAddress_some {i : Instr} {s : State} {a : Addr} (h : storeAddress i s = some a) :
    ∃ v, (completed i s).mem = s.mem.write a.toNat v := by
  cases i with
  | push | call | stReg | stStack =>
    cases h
    exact ⟨_, rfl⟩
  | _ => simp [storeAddress] at h

/-- No instruction changes the platform, the array `ROM` or the reset request (R42, R50, R220). -/
theorem samePlatform_completed (i : Instr) (s : State) : SamePlatform s (completed i s) := by
  cases i <;> exact ⟨rfl, rfl, rfl, rfl, rfl⟩

theorem completed_memOrg (i : Instr) (s : State) : (completed i s).memOrg = s.memOrg := by
  obtain ⟨horg, -⟩ := samePlatform_completed i s
  exact horg

theorem completed_rom (i : Instr) (s : State) : (completed i s).rom = s.rom := by
  obtain ⟨-, -, hrom, -⟩ := samePlatform_completed i s
  exact hrom

/-- A cell reads as before when the arrays hold the same at its address and the organisation is the same. -/
theorem sameCell_of_read_eq {s t : State} {x : Addr} (hmem : t.mem.read x.toNat = s.mem.read x.toNat)
    (horg : t.memOrg = s.memOrg) (hrom : t.rom = s.rom) : SameCell x s t := by
  simp [SameCell, State.memRead, State.fetchWord, hmem, horg, hrom]

theorem sameCell_completed {i : Instr} {s : State} {x : Addr} (h : storeAddress i s ≠ some x) :
    SameCell x s (completed i s) := by
  refine sameCell_of_read_eq ?_ (completed_memOrg i s) (completed_rom i s)
  cases ha : storeAddress i s with
  | none => rw [completed_mem_of_storeAddress_none ha]
  | some a =>
    obtain ⟨v, hv⟩ := completed_mem_of_storeAddress_some ha
    have hne : x.toNat ≠ a.toNat := fun e => h (BitVec.eq_of_toNat_eq e ▸ ha)
    rw [hv, Memory.read_write_of_ne _ _ _ _ hne]

/-! The invariant (R40, R41). -/

theorem State.Inv.completed {s : State} (h : s.Inv) (i : Instr) : (completed i s).Inv := by
  obtain ⟨hmem, hrom⟩ := h
  refine ⟨?_, (completed_rom i s).symm ▸ hrom⟩
  cases ha : storeAddress i s with
  | none => rwa [completed_mem_of_storeAddress_none ha]
  | some a =>
    obtain ⟨v, hv⟩ := completed_mem_of_storeAddress_some ha
    rw [hv]
    exact Memory.wf_write _ _ _ a.isLt hmem

theorem State.Inv.placeWord {s : State} (h : s.Inv) (a : Addr) (w : Word) : (s.placeWord a w).Inv := by
  obtain ⟨hmem, hrom⟩ := h
  cases ho : s.memOrg
  · simpa [State.placeWord, ho, State.Inv] using ⟨Memory.wf_write _ _ w a.isLt hmem, hrom⟩
  · simpa [State.placeWord, ho, State.Inv] using ⟨hmem, Memory.wf_write _ _ w a.isLt hrom⟩

theorem State.Inv.withImage {s : State} (h : s.Inv) (image : Image) : (s.withImage image).Inv := by
  induction image generalizing s with
  | nil => exact h
  | cons e image ih => exact ih (h.placeWord e.1 e.2)

/-- Settles O10: a reset leaves both arrays, an instruction leaves them or writes one cell of the data array. -/
theorem stepKeepsInvariant : Obligations.StepKeepsInvariant := by
  intro s t hs h
  obtain ⟨-, rfl⟩ | ⟨-, w, -, he⟩ := step_eq_next.1 h
  · exact hs
  · exact completed_of_exec he ▸ hs.completed (decode w)

/-- Settles O9: both arrays are empty. -/
theorem resetMeetsInvariant : Obligations.ResetMeetsInvariant := ⟨Memory.wf_nil, Memory.wf_nil⟩

/-- Settles O11: an image is placed word by word, and the two other moves leave memory. -/
theorem environmentKeepsInvariant : Obligations.EnvironmentKeepsInvariant :=
  fun _ hs => ⟨hs.withImage, fun _ => hs, hs⟩

/-! Completion and read-only memory (R50, D16). -/

/-- Settles O12: the answer of `exec_eq` is a next state where the store address is writable, the refusal where it is not. -/
theorem onlyReadOnlyStoresStop : Obligations.OnlyReadOnlyStoresStop := by
  refine ⟨fun i s h => ⟨completed i s, exec_eq_next_iff.2 ⟨h, rfl⟩⟩, ?_⟩
  intro i s a ha hw
  simp [exec_eq, ha, guardStore, hw]

theorem writable_eq_of_samePlatform {s t : State} (h : SamePlatform s t) (a : Addr) : t.writable a = s.writable a := by
  obtain ⟨horg, hro, -⟩ := h
  simp [State.writable, horg, hro]

/-- Settles O13: the only cell that an instruction changes is writable, or the instruction would not have completed. -/
theorem stepKeepsReadOnlyMemory : Obligations.StepKeepsReadOnlyMemory := by
  intro s t h
  obtain ⟨-, rfl⟩ | ⟨-, w, -, he⟩ := step_eq_next.1 h
  · exact ⟨rfl, rfl, rfl, fun a ha => ⟨ha, rfl, rfl⟩⟩
  · obtain ⟨hstore, rfl⟩ := exec_eq_next_iff.1 he
    have hp := samePlatform_completed (decode w) s
    have ⟨horg, hro, hrom, _⟩ := hp
    refine ⟨horg, hro, hrom, fun a ha => ⟨(writable_eq_of_samePlatform hp a).trans ha, ?_⟩⟩
    have hne : storeAddress (decode w) s ≠ some a := fun hs => by simp [hstore a hs] at ha
    exact sameCell_completed hne

/-- Settles O18: the frame of memory is the frame of the state an instruction leaves. -/
theorem memoryFrame : Obligations.MemoryFrame := by
  intro i s t h a ha
  exact completed_of_exec h ▸ sameCell_completed ha

/-- Settles O56: under `unified` the array fetched from is the one the store wrote, under `split` it is the `ROM`. -/
theorem fetchSeesStore : Obligations.FetchSeesStore := by
  intro i s t a h ha
  obtain ⟨v, hv⟩ := completed_mem_of_storeAddress_some ha
  have horg := completed_memOrg i s
  have hrom := completed_rom i s
  rw [completed_of_exec h] at hv horg hrom
  constructor
  · intro ho
    simp [State.fetchWord, State.memRead, horg, ho, hv]
  · intro ho x
    simp [State.fetchWord, horg, ho, hrom]

/-! Registers, `sp`, `pc` and ports (R22, R24, R28, R35). -/

/-- Settles O17: each register write goes to the destination. -/
theorem registerFrame : Obligations.RegisterFrame := by
  intro i s t h r hr
  rw [← completed_of_exec h]
  cases i with
  | pop a | inPort a | clr a | rsp a | not a | mv a _ | add a _ | sub a _ | and a _ | or a _ | xor a _ | shr a _ | shl a _
  | mvh a _ | mvl a _ | ldStack a _ | ldReg a _ _ =>
    have hne : r ≠ a := fun e => hr (congrArg some e.symm)
    exact State.reg_setReg_of_ne _ a r _ hne
  | _ => rfl

/-- Decrementing an address, as a number modulo 2^10 (R29, D6). -/
theorem addr_sub_one_toNat_mod (a : Addr) : (a - 1).toNat = (a.toNat + 1023) % 1024 := by
  bv_omega

/-- Incrementing an address, as a number modulo 2^10 (R25, R29, D6). -/
theorem addr_add_one_toNat_mod (a : Addr) : (a + 1).toNat = (a.toNat + 1) % 1024 := by
  bv_omega

/-- Settles O19: each instruction's own write to `sp`, as a number. -/
theorem stackPointerFrame : Obligations.StackPointerFrame := by
  intro i s t h
  rw [← completed_of_exec h]
  cases i with
  | push | call => exact addr_sub_one_toNat_mod s.sp
  | pop | ret => exact addr_add_one_toNat_mod s.sp
  | lspReg a => exact low10_toNat (s.reg a)
  | _ => rfl

theorem completed_outputs {i : Instr} {s : State} (h : ∀ a, i ≠ .outPort a) : (completed i s).outputs = s.outputs := by
  cases i with
  | outPort a => exact absurd rfl (h a)
  | _ => rfl

theorem sameInput_completed {i : Instr} {s : State} (h : ∀ a, i ≠ .inPort a) : SameInput s (completed i s) := by
  cases i with
  | inPort a => exact absurd rfl (h a)
  | _ => exact ⟨rfl, rfl⟩

/-- Settles O20: the three parts of the frame of the state an instruction leaves. -/
theorem portAndPlatformFrame : Obligations.PortAndPlatformFrame := by
  intro i s t h
  rw [← completed_of_exec h]
  exact ⟨samePlatform_completed i s, sameInput_completed, completed_outputs⟩

/-- Settles O14: a reset keeps the history, and an instruction that is no `out` does too. -/
theorem outputHistoryOnlyGrows : Obligations.OutputHistoryOnlyGrows := by
  intro s t h
  obtain ⟨-, rfl⟩ | ⟨-, w, hw, he⟩ := step_eq_next.1 h
  · exact .inl rfl
  · rw [← completed_of_exec he]
    by_cases hout : ∃ a, decode w = .outPort a
    · obtain ⟨a, ha⟩ := hout
      exact .inr ⟨w, a, hw, ha, by rw [ha]; rfl⟩
    · exact .inl (completed_outputs (not_exists.1 hout))

/-- The next `pc` is the target of the transfer, or the next address (R24, R25). -/
theorem completed_pc (i : Instr) (s : State) : (completed i s).pc = (transferTarget i s).getD (s.pc + 1) := by
  cases i with
  | jc | jnc => cases h : s.c <;> simp [completed, transferTarget, h]
  | jz | jnz => cases h : s.z <;> simp [completed, transferTarget, h]
  | _ => rfl

/-- Settles O21: the two cases of `completed_pc`, the next address as a number. -/
theorem programCounterSequence : Obligations.ProgramCounterSequence := by
  intro i s t h
  have hpc := completed_pc i s
  rw [completed_of_exec h] at hpc
  cases ht : transferTarget i s with
  | none => simp [hpc, ht]
  | some target => simp [hpc, ht]

/-! Flags (R31, R32). -/

@[simp] theorem storeAddress_setFlags (i : Instr) (s : State) (c z : Bool) :
    storeAddress i (s.setFlags c z) = storeAddress i s := by
  cases i <;> rfl

theorem sameFlags_completed {i : Instr} {s : State} (h : writesFlags i = false) : SameFlags s (completed i s) := by
  cases i with
  | not | add | sub | cmp | and | or | xor | shr | shl => simp [writesFlags] at h
  | _ => exact ⟨rfl, rfl⟩

/-- With other values of the flags it does not read, an instruction leaves the same state, but that one that writes no flag
passes the other values on. -/
theorem completed_setFlags {i : Instr} {s : State} {c z : Bool} (hc : readsCarry i → c = s.c) (hz : readsZero i → z = s.z) :
    completed i (s.setFlags c z) = if writesFlags i then completed i s else (completed i s).setFlags c z := by
  cases i with
  | jc target =>
    cases hc ⟨target, .inl rfl⟩
    rfl
  | jnc target =>
    cases hc ⟨target, .inr rfl⟩
    rfl
  | jz target =>
    cases hz ⟨target, .inl rfl⟩
    rfl
  | jnz target =>
    cases hz ⟨target, .inr rfl⟩
    rfl
  | _ => rfl

/-- The same of the whole answer, stops included. -/
theorem exec_setFlags {i : Instr} {s : State} {c z : Bool} (hc : readsCarry i → c = s.c) (hz : readsZero i → z = s.z) :
    exec i (s.setFlags c z) = mapNext (fun t => if writesFlags i then t else t.setFlags c z) (exec i s) := by
  rw [exec_eq, exec_eq, storeAddress_setFlags, completed_setFlags hc hz]
  cases storeAddress i s with
  | none => rfl
  | some a => cases h : s.writable a <;> simp [guardStore, h]

theorem not_readsCarry_of_writesFlags {i : Instr} (h : writesFlags i = true) : ¬ readsCarry i := by
  rintro ⟨t, rfl | rfl⟩ <;> simp [writesFlags] at h

theorem not_readsZero_of_writesFlags {i : Instr} (h : writesFlags i = true) : ¬ readsZero i := by
  rintro ⟨t, rfl | rfl⟩ <;> simp [writesFlags] at h

/-- Settles O15: a flag writer reads no flag, so with other flags before it answers the same. -/
theorem nineInstructionsWriteBothFlags : Obligations.NineInstructionsWriteBothFlags := by
  intro i s t h
  constructor
  · intro hw
    exact completed_of_exec h ▸ sameFlags_completed hw
  · intro hw c z
    rw [exec_setFlags (fun hr => absurd hr (not_readsCarry_of_writesFlags hw))
      (fun hr => absurd hr (not_readsZero_of_writesFlags hw)), h]
    simp [hw]

/-- Settles O16: the first clause is `exec_setFlags`; each jump goes to its target under one value of its flag and on to the
next cell under the other. -/
theorem conditionalJumpsAloneReadFlags : Obligations.ConditionalJumpsAloneReadFlags :=
  ⟨fun _ _ _ _ => exec_setFlags, fun _ _ => ⟨⟨_, _, rfl, rfl, rfl, rfl⟩, ⟨_, _, rfl, rfl, rfl, rfl⟩,
    ⟨_, _, rfl, rfl, rfl, rfl⟩, ⟨_, _, rfl, rfl, rfl, rfl⟩⟩⟩

end Sys2Proof.Machine

/-! PROOFS of the family 'other': encoding and decoding. An instruction's word masked by its ignored bits is its encoding
(`encode_decode`), so a word decodes to an instruction as soon as it is the encoding but for ignored bits. -/

namespace Sys2Proof

/-! The fields of a word of each format (R70, R71). -/

@[simp] theorem regA_formatR (op : Opcode) (a : Reg) : regA (formatR op a) = a :=
  BitVec.eq_of_toNat_eq (by rw [regA_toNat, formatR_toNat]; omega)

@[simp] theorem regA_formatRR (op : Opcode) (a b : Reg) : regA (formatRR op a b) = a :=
  BitVec.eq_of_toNat_eq (by rw [regA_toNat, formatRR_toNat]; omega)

@[simp] theorem regB_formatRR (op : Opcode) (a b : Reg) : regB (formatRR op a b) = b :=
  BitVec.eq_of_toNat_eq (by rw [regB_toNat, formatRR_toNat]; omega)

@[simp] theorem regA_formatRI (op : Opcode) (a : Reg) (imm : Byte) : regA (formatRI op a imm) = a :=
  BitVec.eq_of_toNat_eq (by rw [regA_toNat, formatRI_toNat]; omega)

@[simp] theorem lowByteOf_formatRI (op : Opcode) (a : Reg) (imm : Byte) : lowByteOf (formatRI op a imm) = imm :=
  BitVec.eq_of_toNat_eq (by rw [lowByteOf_toNat, formatRI_toNat]; omega)

@[simp] theorem regA_formatRRO (op : Opcode) (a b : Reg) (off : Off5) : regA (formatRRO op a b off) = a :=
  BitVec.eq_of_toNat_eq (by rw [regA_toNat, formatRRO_toNat]; omega)

@[simp] theorem regB_formatRRO (op : Opcode) (a b : Reg) (off : Off5) : regB (formatRRO op a b off) = b :=
  BitVec.eq_of_toNat_eq (by rw [regB_toNat, formatRRO_toNat]; omega)

@[simp] theorem off5Of_formatRRO (op : Opcode) (a b : Reg) (off : Off5) : off5Of (formatRRO op a b off) = off :=
  BitVec.eq_of_toNat_eq (by rw [off5Of_toNat, formatRRO_toNat]; omega)

@[simp] theorem addrOf_formatA (op : Opcode) (t : Addr) : addrOf (formatA op t) = t :=
  BitVec.eq_of_toNat_eq (by rw [addrOf_toNat, formatA_toNat]; omega)

/-! Decoding an encoded instruction. -/

/-- The decoder reads back the opcode and then every field of the format (R77). -/
theorem decode_encode (i : Instr) : decode (encode i) = i := by
  cases i with
  | nop | ret => simp [encode, decode, opcodeOf_formatN]
  | push | pop | inPort | outPort | clr | lspReg | rsp | not => simp [encode, decode, opcodeOf_formatR]
  | mv | add | sub | cmp | and | or | xor | shr | shl => simp [encode, decode, opcodeOf_formatRR]
  | mvh | mvl | ldStack | stStack => simp [encode, decode, opcodeOf_formatRI]
  | ldReg | stReg => simp [encode, decode, opcodeOf_formatRRO]
  | call | jmp | jc | jnc | jz | jnz | lspImm => simp [encode, decode, opcodeOf_formatA]

/-- Settles O22: `decode_encode`. -/
theorem decodeOfEncode : Obligations.DecodeOfEncode := decode_encode

/-! Encoding a decoded word: each format keeps the opcode and its fields and clears the ignored bits (R72, D3). -/

/-- A word is its masked part and the rest of it. -/
theorem and_add_and_not (w m : Word) : (w &&& m) + (w &&& ~~~m) = w := by
  rw [BitVec.add_eq_or_of_and_eq_zero]
  · ext k
    cases h : m[k] <;> simp [h]
  · ext k
    cases h : m[k] <;> simp [h]

/-- Clearing the lowest `k` bits. -/
theorem and_not_lowBits_toNat {w m : Word} (k : Nat) (hm : m.toNat = 2 ^ k - 1) :
    (w &&& ~~~m).toNat = w.toNat - w.toNat % 2 ^ k := by
  have hlow : (w &&& m).toNat = w.toNat % 2 ^ k := by rw [BitVec.toNat_and, hm, Nat.and_two_pow_sub_one_eq_mod]
  have hle : w.toNat % 2 ^ k ≤ w.toNat := Nat.mod_le _ _
  have hsum := congrArg BitVec.toNat (and_add_and_not w m)
  have := (w &&& ~~~m).isLt
  rw [BitVec.toNat_add, hlow] at hsum
  omega

section Fields

variable {w : Word} {op : Opcode} (h : (opcodeOf w).toNat = op.toNat)
include h

theorem formatN_fields : formatN op = w &&& ~~~0x07FF :=
  BitVec.eq_of_toNat_eq (by rw [formatN_toNat, and_not_lowBits_toNat 11 rfl, ← h, opcodeOf_toNat]; omega)

theorem formatR_fields : formatR op (regA w) = w &&& ~~~0x00FF :=
  BitVec.eq_of_toNat_eq (by rw [formatR_toNat, and_not_lowBits_toNat 8 rfl, ← h, opcodeOf_toNat, regA_toNat]; omega)

theorem formatRR_fields : formatRR op (regA w) (regB w) = w &&& ~~~0x001F :=
  BitVec.eq_of_toNat_eq (by
    rw [formatRR_toNat, and_not_lowBits_toNat 5 rfl, ← h, opcodeOf_toNat, regA_toNat, regB_toNat]; omega)

theorem formatRI_fields : formatRI op (regA w) (lowByteOf w) = w &&& ~~~0x0000 :=
  BitVec.eq_of_toNat_eq (by
    rw [formatRI_toNat, and_not_lowBits_toNat 0 rfl, ← h, opcodeOf_toNat, regA_toNat, lowByteOf_toNat]; omega)

theorem formatRRO_fields : formatRRO op (regA w) (regB w) (off5Of w) = w &&& ~~~0x0000 :=
  BitVec.eq_of_toNat_eq (by
    rw [formatRRO_toNat, and_not_lowBits_toNat 0 rfl, ← h, opcodeOf_toNat, regA_toNat, regB_toNat, off5Of_toNat]
    omega)

theorem formatA_fields : formatA op (addrOf w) = w &&& ~~~0x0001 :=
  BitVec.eq_of_toNat_eq (by rw [formatA_toNat, and_not_lowBits_toNat 1 rfl, ← h, opcodeOf_toNat, addrOf_toNat]; omega)

end Fields

/-- Encoding what a word decodes to clears the bits the instruction ignores: one case a row of the opcode map (R73). -/
theorem encode_decode (w : Word) : encode (decode w) = w &&& ~~~ignoredBits (decode w) := by
  unfold decode
  split
  case h_1 h | h_16 h => exact formatN_fields h
  case h_7 h | h_8 h | h_17 h | h_18 h | h_23 h | h_27 h | h_29 h | h_30 h => exact formatR_fields h
  case h_2 h | h_9 h | h_19 h | h_20 h | h_21 h | h_22 h | h_24 h | h_25 h | h_26 h => exact formatRR_fields h
  case h_3 h | h_4 h | h_5 h | h_6 h => exact formatRI_fields h
  case h_10 h | h_11 h | h_12 h | h_13 h | h_14 h | h_15 h | h_28 h => exact formatA_fields h
  case h_31 h => exact formatRRO_fields h
  case h_32 =>
    have h : (opcodeOf w).toNat = 31 := by
      simp only [imp_false] at *
      omega
    exact formatRRO_fields h

/-- Which bits are ignored hangs on the opcode alone. -/
theorem ignoredBits_decode_congr {w x : Word} (h : opcodeOf x = opcodeOf w) :
    ignoredBits (decode x) = ignoredBits (decode w) := by
  unfold decode
  rw [h]
  split <;> rfl

/-- No instruction ignores a bit of its opcode. -/
theorem opcodeOf_ignoredBits (i : Instr) : opcodeOf (ignoredBits i) = 0 := by
  apply BitVec.eq_of_toNat_eq
  rw [opcodeOf_toNat]
  cases i <;> simp [ignoredBits]

/-- Clearing bits outside the opcode field leaves the opcode. -/
theorem opcodeOf_and_not {w m : Word} (hm : opcodeOf m = 0) : opcodeOf (w &&& ~~~m) = opcodeOf w := by
  ext k hk
  have hbit : (opcodeOf m)[k] = false := by simp [hm]
  simp only [opcodeOf, BitVec.getElem_extractLsb', BitVec.getLsbD_and, BitVec.getLsbD_not] at hbit ⊢
  have hlt : 11 + k < 16 := by omega
  simp only [hbit, hlt, decide_true, Bool.not_false, Bool.and_true]

/-- Two words that agree but for ignored bits decode alike. -/
theorem decode_congr {w x : Word} (h : w &&& ~~~ignoredBits (decode w) = x &&& ~~~ignoredBits (decode w)) :
    decode x = decode w := by
  have hop : opcodeOf x = opcodeOf w := by
    have hm := opcodeOf_ignoredBits (decode w)
    rw [← opcodeOf_and_not (w := x) hm, ← h, opcodeOf_and_not hm]
  have henc : encode (decode x) = encode (decode w) := by
    rw [encode_decode, encode_decode, ignoredBits_decode_congr hop, h]
  rw [← decode_encode (decode x), henc, decode_encode]

/-- Settles O23. -/
theorem ignoredBitsDoNotMatter : Obligations.IgnoredBitsDoNotMatter := ⟨fun _ _ => decode_congr, encode_decode⟩

/-! The words as numbers (R63 to R69): the opcode in units of 2^11, the fields below it. -/

theorem formatR_eq_ofNat (op : Opcode) (a : Reg) : formatR op a = BitVec.ofNat 16 (2048 * op.toNat + 256 * a.toNat) :=
  BitVec.eq_of_toNat_eq (by rw [formatR_toNat, BitVec.toNat_ofNat]; omega)

theorem formatRR_eq_ofNat (op : Opcode) (a b : Reg) :
    formatRR op a b = BitVec.ofNat 16 (2048 * op.toNat + 256 * a.toNat + 32 * b.toNat) :=
  BitVec.eq_of_toNat_eq (by rw [formatRR_toNat, BitVec.toNat_ofNat]; omega)

theorem formatRI_eq_ofNat (op : Opcode) (a : Reg) (imm : Byte) :
    formatRI op a imm = BitVec.ofNat 16 (2048 * op.toNat + 256 * a.toNat + imm.toNat) :=
  BitVec.eq_of_toNat_eq (by rw [formatRI_toNat, BitVec.toNat_ofNat]; omega)

theorem formatRRO_eq_ofNat (op : Opcode) (a b : Reg) (off : Off5) :
    formatRRO op a b off = BitVec.ofNat 16 (2048 * op.toNat + 256 * a.toNat + 32 * b.toNat + off.toNat) :=
  BitVec.eq_of_toNat_eq (by rw [formatRRO_toNat, BitVec.toNat_ofNat]; omega)

theorem formatA_eq_ofNat (op : Opcode) (t : Addr) : formatA op t = BitVec.ofNat 16 (2048 * op.toNat + 2 * t.toNat) :=
  BitVec.eq_of_toNat_eq (by rw [formatA_toNat, BitVec.toNat_ofNat]; omega)

/-- A word that is the encoding but for ignored bits decodes to the instruction. -/
theorem decode_of_masked {i : Instr} {w : Word} (h : w &&& ~~~ignoredBits i = encode i) : decode w = i := by
  have hagree : encode i &&& ~~~ignoredBits (decode (encode i)) = w &&& ~~~ignoredBits (decode (encode i)) := by
    rw [decode_encode, ← h, BitVec.and_assoc, BitVec.and_self]
  rw [decode_congr hagree, decode_encode]

/-- The same where the word is a number and the instruction ignores the lowest `k` bits. -/
theorem decode_ofNat_of_ignored {i : Instr} {n : Nat} (k : Nat) (hk : (ignoredBits i).toNat = 2 ^ k - 1)
    (hn : n < 65536) (henc : (encode i).toNat = n - n % 2 ^ k) : decode (BitVec.ofNat 16 n) = i := by
  apply decode_of_masked
  apply BitVec.eq_of_toNat_eq
  rw [and_not_lowBits_toNat k hk, henc, BitVec.toNat_ofNat, Nat.mod_eq_of_lt hn]

/-! What decodes from the numbers of each format, whatever its ignored bits hold. -/

section Words

variable {i : Instr} (op : Opcode)

theorem decode_ofNat_formatN (henc : encode i = formatN op) (hign : ignoredBits i = 0x07FF) {x : Nat} (hx : x < 2048) :
    decode (BitVec.ofNat 16 (2048 * op.toNat + x)) = i :=
  decode_ofNat_of_ignored 11 (by rw [hign]; rfl) (by omega) (by rw [henc, formatN_toNat]; omega)

theorem decode_ofNat_formatR {a : Reg} (henc : encode i = formatR op a) (hign : ignoredBits i = 0x00FF) {x : Nat}
    (hx : x < 256) : decode (BitVec.ofNat 16 (2048 * op.toNat + 256 * a.toNat + x)) = i :=
  decode_ofNat_of_ignored 8 (by rw [hign]; rfl) (by omega) (by rw [henc, formatR_toNat]; omega)

theorem decode_ofNat_formatRR {a b : Reg} (henc : encode i = formatRR op a b) (hign : ignoredBits i = 0x001F) {x : Nat}
    (hx : x < 32) : decode (BitVec.ofNat 16 (2048 * op.toNat + 256 * a.toNat + 32 * b.toNat + x)) = i :=
  decode_ofNat_of_ignored 5 (by rw [hign]; rfl) (by omega) (by rw [henc, formatRR_toNat]; omega)

theorem decode_ofNat_formatA {t : Addr} (henc : encode i = formatA op t) (hign : ignoredBits i = 0x0001) {x : Nat}
    (hx : x < 2) : decode (BitVec.ofNat 16 (2048 * op.toNat + 2 * t.toNat + x)) = i :=
  decode_ofNat_of_ignored 1 (by rw [hign]; rfl) (by omega) (by rw [henc, formatA_toNat]; omega)

theorem decode_ofNat_formatRI {a : Reg} {imm : Byte} (henc : encode i = formatRI op a imm) :
    decode (BitVec.ofNat 16 (2048 * op.toNat + 256 * a.toNat + imm.toNat)) = i := by
  rw [← formatRI_eq_ofNat, ← henc, decode_encode]

theorem decode_ofNat_formatRRO {a b : Reg} {off : Off5} (henc : encode i = formatRRO op a b off) :
    decode (BitVec.ofNat 16 (2048 * op.toNat + 256 * a.toNat + 32 * b.toNat + off.toNat)) = i := by
  rw [← formatRRO_eq_ofNat, ← henc, decode_encode]

end Words

/-- Settles O24: the opcodes of formats N and R in R73. -/
theorem noArgumentAndRegisterWords : Obligations.NoArgumentAndRegisterWords := by
  refine ⟨fun x hx => ⟨?nop, decode_ofNat_formatN 0b01111 rfl rfl hx⟩, fun a x hx => ⟨?_, ?_, ?_, ?_, ?_, ?_, ?_, ?_⟩⟩
  case nop => exact decode_ofNat_formatN 0b00000 rfl rfl hx
  · exact decode_ofNat_formatR 0b10000 rfl rfl hx
  · exact decode_ofNat_formatR 0b10001 rfl rfl hx
  · exact decode_ofNat_formatR 0b00110 rfl rfl hx
  · exact decode_ofNat_formatR 0b00111 rfl rfl hx
  · exact decode_ofNat_formatR 0b11010 rfl rfl hx
  · exact decode_ofNat_formatR 0b11100 rfl rfl hx
  · exact decode_ofNat_formatR 0b11101 rfl rfl hx
  · exact decode_ofNat_formatR 0b10110 rfl rfl hx

/-- Settles O25: the opcodes of format RR in R73. -/
theorem registerRegisterWords : Obligations.RegisterRegisterWords := fun _ _ _ hx =>
  ⟨decode_ofNat_formatRR 0b00001 rfl rfl hx, decode_ofNat_formatRR 0b10010 rfl rfl hx,
    decode_ofNat_formatRR 0b10011 rfl rfl hx, decode_ofNat_formatRR 0b01000 rfl rfl hx,
    decode_ofNat_formatRR 0b10100 rfl rfl hx, decode_ofNat_formatRR 0b10101 rfl rfl hx,
    decode_ofNat_formatRR 0b10111 rfl rfl hx, decode_ofNat_formatRR 0b11000 rfl rfl hx,
    decode_ofNat_formatRR 0b11001 rfl rfl hx⟩

/-- Settles O26: the opcodes of formats RI, RSO and RRO in R73; the pattern of an offset is its value modulo 2^8 or 2^5. -/
theorem immediateAndOffsetWords : Obligations.ImmediateAndOffsetWords := by
  refine ⟨fun a imm => ⟨decode_ofNat_formatRI 0b00010 rfl, decode_ofNat_formatRI 0b00011 rfl⟩, fun a off _ _ => ?off8,
    fun a b off _ _ => ?off5⟩
  case off8 =>
    have hoff : (off % 256).toNat = (BitVec.ofInt 8 off).toNat := by simp
    rw [hoff]
    exact ⟨decode_ofNat_formatRI 0b00100 rfl, decode_ofNat_formatRI 0b00101 rfl⟩
  case off5 =>
    have hoff : (off % 32).toNat = (BitVec.ofInt 5 off).toNat := by simp
    rw [hoff]
    exact ⟨decode_ofNat_formatRRO 0b11110 rfl, decode_ofNat_formatRRO 0b11111 rfl⟩

/-- Settles O27: the opcodes of format A in R73. -/
theorem addressWords : Obligations.AddressWords := fun _ _ hx =>
  ⟨decode_ofNat_formatA 0b01110 rfl rfl hx, decode_ofNat_formatA 0b01001 rfl rfl hx,
    decode_ofNat_formatA 0b01010 rfl rfl hx, decode_ofNat_formatA 0b01011 rfl rfl hx,
    decode_ofNat_formatA 0b01100 rfl rfl hx, decode_ofNat_formatA 0b01101 rfl rfl hx,
    decode_ofNat_formatA 0b11011 rfl rfl hx⟩

/-- Settles O28: the decoder computes on each vector. -/
theorem sampleWordsDecode : Obligations.SampleWordsDecode := by
  unfold Obligations.SampleWordsDecode
  decide

end Sys2Proof

/-! PROOFS of the family 'other': what single instructions do. Each shared shape of a next state (a register written, the flags
with it, `sp` set, `pc` set, a cell stored) has its frame proved once. -/

namespace Sys2Proof.Machine

/-! Addresses and words as numbers. -/

theorem addr_eq_add_one {a b : Addr} (h : b.toNat = (a.toNat + 1) % 1024) : b = a + 1 :=
  BitVec.eq_of_toNat_eq (h.trans (addr_add_one_toNat_mod a).symm)

theorem ofNat_addr_succ (a : Addr) : BitVec.ofNat 10 ((a.toNat + 1) % 1024) = a + 1 :=
  addr_eq_add_one (by simp)

theorem pcAdvances_of_pc_eq {s t : State} (h : t.pc = s.pc + 1) : PcAdvances s t :=
  (congrArg BitVec.toNat h).trans (addr_add_one_toNat_mod s.pc)

theorem eq_eaReg {s : State} {b : Reg} {off : Off5} {ea : Addr}
    (h : (ea.toNat : Int) = ((s.reg b).toNat % 1024 + off.toInt) % 1024) : ea = eaReg s b off := by
  have := eaReg_toNat s b off
  exact BitVec.eq_of_toNat_eq (by omega)

theorem eq_eaStack {s : State} {off : Byte} {ea : Addr} (h : (ea.toNat : Int) = (s.sp.toNat + off.toInt) % 1024) :
    ea = eaStack s off := by
  have := eaStack_toNat s off
  exact BitVec.eq_of_toNat_eq (by omega)

/-! The frames of the shared shapes. -/

/-- Writing a register changes no other register. -/
theorem sameRegsExcept_setReg (s : State) (a : Reg) (v : Word) : SameRegsExcept a s (s.setReg a v) :=
  fun r hr => s.reg_setReg_of_ne a r v hr

theorem onlyRegister_setReg_advance (s : State) (a : Reg) (v : Word) : OnlyRegister a v s (s.setReg a v).advance :=
  ⟨s.reg_setReg_self a v, sameRegsExcept_setReg s a v, rfl, ⟨rfl, rfl⟩, fun _ => ⟨rfl, rfl⟩, ⟨rfl, rfl, rfl⟩,
    ⟨rfl, rfl, rfl, rfl, rfl⟩, pcAdvances_of_pc_eq rfl⟩

theorem registerAndFlags_setReg_setFlags {s : State} {a : Reg} {v w : Word} {c z : Bool} {C Z : Prop} (hv : v = w)
    (hc : c = true ↔ C) (hz : z = true ↔ Z) : RegisterAndFlags a w C Z s ((s.setReg a v).setFlags c z).advance :=
  ⟨(s.reg_setReg_self a v).trans hv, hc, hz, sameRegsExcept_setReg s a v, rfl, fun _ => ⟨rfl, rfl⟩, ⟨rfl, rfl, rfl⟩,
    ⟨rfl, rfl, rfl, rfl, rfl⟩, pcAdvances_of_pc_eq rfl⟩

@[simp] theorem reg_setLogic_advance (s : State) (a : Reg) (r : Word) : (s.setLogic a r).advance.reg a = r :=
  s.reg_setReg_self a r

/-- A logic result: `c` is cleared, and `z` tells whether the result is zero (R31). -/
theorem registerAndFlags_setLogic {s : State} {a : Reg} {r : Word} {Z : Prop} (hz : r = 0x0000 ↔ Z) :
    RegisterAndFlags a ((s.setLogic a r).advance.reg a) False Z s (s.setLogic a r).advance :=
  registerAndFlags_setReg_setFlags (reg_setLogic_advance s a r).symm (by simp) ((isZero_iff r).trans hz)

theorem onlyPc_jumpTo (s : State) (target : Addr) : OnlyPc target s (s.jumpTo target) :=
  ⟨rfl, fun _ => rfl, rfl, ⟨rfl, rfl⟩, fun _ => ⟨rfl, rfl⟩, ⟨rfl, rfl, rfl⟩, rfl, rfl, rfl, rfl, rfl⟩

theorem onlyStackPointer_setSp_advance (s : State) (a : Addr) : OnlyStackPointer a s (s.setSp a).advance :=
  ⟨rfl, fun _ => rfl, ⟨rfl, rfl⟩, fun _ => ⟨rfl, rfl⟩, ⟨rfl, rfl, rfl⟩, ⟨rfl, rfl, rfl, rfl, rfl⟩, pcAdvances_of_pc_eq rfl⟩

/-- `s` becomes `t` by storing `v` in the cell at `ea` and going on to the next cell, and by nothing else. -/
def OnlyCell (ea : Addr) (v : Word) (s t : State) : Prop :=
  t.memRead ea = v ∧ SameMemoryExcept ea s t ∧ SameRegs s t ∧ t.sp = s.sp ∧ SameFlags s t ∧ SamePorts s t ∧ SamePlatform s t
    ∧ PcAdvances s t

@[simp] theorem memRead_memWrite_self (s : State) (a : Addr) (v : Word) : (s.memWrite a v).memRead a = v := by
  simp [State.memRead_memWrite]

theorem onlyCell_memWrite_advance (s : State) (ea : Addr) (v : Word) : OnlyCell ea v s (s.memWrite ea v).advance :=
  ⟨memRead_memWrite_self s ea v, sameMemoryExcept_memWrite s ea v, fun _ => rfl, rfl, ⟨rfl, rfl⟩, ⟨rfl, rfl, rfl⟩,
    ⟨rfl, rfl, rfl, rfl, rfl⟩, pcAdvances_of_pc_eq rfl⟩

/-! Flags and arithmetic (R107, R121 to R128). -/

/-- Settles O38: inverting is the exclusive or with sixteen ones. -/
theorem notInvertsEveryBit : Obligations.NotInvertsEveryBit := by
  intro s a
  have hnot : s.reg a ^^^ 0xFFFF = ~~~s.reg a := BitVec.xor_allOnes
  refine ⟨_, exec_not a s, fun k hk => ?bits, registerAndFlags_setLogic BitVec.xor_eq_zero_iff⟩
  case bits =>
    rw [reg_setLogic_advance, hnot, BitVec.getLsbD_not]
    simp [hk]

/-- Settles O40: the sum of the words is the sum of the numbers modulo 2^16. -/
theorem addSumAndCarry : Obligations.AddSumAndCarry := by
  intro s a b
  have hsum : s.reg a + s.reg b = BitVec.ofNat 16 (((s.reg a).toNat + (s.reg b).toNat) % 65536) :=
    BitVec.eq_of_toNat_eq (by simp)
  have hzero : s.reg a + s.reg b = 0x0000 ↔ ((s.reg a).toNat + (s.reg b).toNat) % 65536 = 0 := by
    rw [← BitVec.toNat_inj, BitVec.toNat_add]
    rfl
  exact ⟨_, exec_add a b s,
    registerAndFlags_setReg_setFlags hsum (addCarry_iff _ _) ((isZero_iff _).trans hzero)⟩

/-- Settles O41: the difference of the words is the difference of the numbers modulo 2^16, zero only where they are equal. -/
theorem subDifferenceAndBorrow : Obligations.SubDifferenceAndBorrow := by
  intro s a b
  have hdiff : s.reg a - s.reg b = BitVec.ofInt 16 ((s.reg a).toNat - (s.reg b).toNat) := by
    apply BitVec.eq_of_toNat_eq
    rw [BitVec.toNat_sub, BitVec.toNat_ofInt]
    omega
  have hzero : s.reg a - s.reg b = 0x0000 ↔ s.reg a = s.reg b := sub_eq_zero
  exact ⟨_, exec_sub a b s,
    registerAndFlags_setReg_setFlags hdiff (subBorrow_iff _ _) ((isZero_iff _).trans hzero)⟩

/-- Settles O42: equal registers are not in strict order, so the two flags exclude each other. -/
theorem cmpSignedOrder : Obligations.CmpSignedOrder := by
  intro s a b
  refine ⟨_, exec_cmp a b s, cmpEqual_iff _ _, cmpGreater_iff _ _, ?exclusive, fun _ => rfl, rfl, fun _ => ⟨rfl, rfl⟩,
    ⟨rfl, rfl, rfl⟩, ⟨rfl, rfl, rfl, rfl, rfl⟩, pcAdvances_of_pc_eq rfl⟩
  case exclusive =>
    rintro ⟨hc, hz⟩
    have hlt := (cmpGreater_iff _ _).1 hc
    rw [(cmpEqual_iff _ _).1 hz] at hlt
    exact lt_irrefl _ hlt

/-- Settles O43: the bits of the three results, and when an exclusive or is zero. -/
theorem logicBitByBit : Obligations.LogicBitByBit := by
  intro s a b
  refine ⟨⟨_, exec_and a b s, fun k _ => ?_, ?_⟩, ⟨_, exec_or a b s, fun k _ => ?_, ?_⟩, _, exec_xor a b s, fun k _ => ?_,
    registerAndFlags_setLogic BitVec.xor_eq_zero_iff⟩
  · rw [reg_setLogic_advance, BitVec.getLsbD_and, Bool.and_eq_true]
  · exact registerAndFlags_setLogic (by rw [reg_setLogic_advance])
  · rw [reg_setLogic_advance, BitVec.getLsbD_or, Bool.or_eq_true]
  · exact registerAndFlags_setLogic (by rw [reg_setLogic_advance])
  · rw [reg_setLogic_advance, BitVec.getLsbD_xor, bne_iff_ne]

/-- Settles O44: the values `shiftRight` and `shiftLeft` compute. -/
theorem shiftsByWholeRegister : Obligations.ShiftsByWholeRegister := by
  intro s a b
  refine ⟨⟨_, exec_shr a b s, ?_, ?_⟩, _, exec_shl a b s, ?_, ?_⟩
  · rw [reg_setLogic_advance, shiftRight_toNat]
  · exact registerAndFlags_setLogic (by rw [reg_setLogic_advance])
  · rw [reg_setLogic_advance, shiftLeft_toNat]
  · exact registerAndFlags_setLogic (by rw [reg_setLogic_advance])

/-! Loads and stores (R150 to R154). -/

/-- Settles O47: the address of the statement is the effective address. -/
theorem loadsReadBasePlusOffset : Obligations.LoadsReadBasePlusOffset := by
  constructor
  · intro s a b off ea h
    exact ⟨_, exec_ldReg a b off s, eq_eaReg h ▸ onlyRegister_setReg_advance s a _⟩
  · intro s a off ea h
    exact ⟨_, exec_ldStack a off s, eq_eaStack h ▸ onlyRegister_setReg_advance s a _⟩

/-- Settles O48: the address of the statement is the effective address, and the store completes where it is writable. -/
theorem storesWriteBasePlusOffset : Obligations.StoresWriteBasePlusOffset := by
  constructor
  · intro s a b off ea h hw
    obtain rfl := eq_eaReg h
    exact ⟨_, (exec_stReg a b off s).trans (State.storeThen_of_writable hw), onlyCell_memWrite_advance s _ _⟩
  · intro s a off ea h hw
    obtain rfl := eq_eaStack h
    exact ⟨_, (exec_stStack a off s).trans (State.storeThen_of_writable hw), onlyCell_memWrite_advance s _ _⟩

/-- Settles O55: the load forms the address that the store formed, since neither `sp` nor a register has changed. -/
theorem loadAfterStore : Obligations.LoadAfterStore := by
  constructor
  · intro s a b d off t h
    rw [exec_stReg, State.storeThen_eq_next] at h
    obtain ⟨-, rfl⟩ := h
    exact ⟨_, exec_ldReg d b off _, (State.reg_setReg_self _ d _).trans (memRead_memWrite_self s (eaReg s b off) _)⟩
  · intro s a d off t h
    rw [exec_stStack, State.storeThen_eq_next] at h
    obtain ⟨-, rfl⟩ := h
    exact ⟨_, exec_ldStack d off _, (State.reg_setReg_self _ d _).trans (memRead_memWrite_self s (eaStack s off) _)⟩

/-! No-argument and register operations (R90, R91, R100 to R106). -/

/-- Settles O29: going on to the next cell is a jump there. -/
theorem nopChangesOnlyPc : Obligations.NopChangesOnlyPc := by
  intro s
  rw [ofNat_addr_succ]
  exact ⟨_, exec_nop s, onlyPc_jumpTo s _⟩

/-- Settles O30: `top` is the cell at `sp + 1`. -/
theorem retTakesPcFromStack : Obligations.RetTakesPcFromStack := by
  intro s top htop
  obtain rfl := addr_eq_add_one htop
  exact ⟨_, exec_ret s, low10_toNat _, rfl, fun _ => rfl, ⟨rfl, rfl⟩, fun _ => ⟨rfl, rfl⟩, ⟨rfl, rfl, rfl⟩, rfl, rfl, rfl, rfl,
    rfl⟩

/-- Settles O31: the push completes where the cell is writable, and what it does to the stack is `PushesWord`. -/
theorem pushWritesAtOldStackPointer : Obligations.PushWritesAtOldStackPointer := by
  intro s a hw
  have hexec := (exec_push a s).trans (State.storeThen_of_writable hw)
  have hp := pushesWord_of_exec_push hexec
  exact ⟨_, hexec, hp.memRead_oldSp, addr_sub_one_toNat_mod s.sp, hp.memRead_sp_add_one, hp.sameOtherCells, fun _ => rfl,
    ⟨rfl, rfl⟩, ⟨rfl, rfl, rfl⟩, ⟨rfl, rfl, rfl, rfl, rfl⟩, pcAdvances_of_pc_eq rfl⟩

/-- Settles O32: `top` is the cell at `sp + 1`. -/
theorem popLoadsAboveStackPointer : Obligations.PopLoadsAboveStackPointer := by
  intro s a top htop
  obtain rfl := addr_eq_add_one htop
  exact ⟨_, exec_pop a s, s.reg_setReg_self a _, rfl, sameRegsExcept_setReg s a _, ⟨rfl, rfl⟩, fun _ => ⟨rfl, rfl⟩,
    ⟨rfl, rfl, rfl⟩, ⟨rfl, rfl, rfl, rfl, rfl⟩, pcAdvances_of_pc_eq rfl⟩

/-- Settles O33: the first presented value is the one delivered, and the others stay presented. -/
theorem inDeliversPresentedValue : Obligations.InDeliversPresentedValue := by
  intro s a
  refine ⟨_, exec_inPort a s, fun v rest h => ⟨?_, ?_⟩, fun h => ?_, sameRegsExcept_setReg s.consumeInput a s.nextInput, rfl,
    ⟨rfl, rfl⟩, fun _ => ⟨rfl, rfl⟩, rfl, ⟨rfl, rfl, rfl, rfl, rfl⟩, pcAdvances_of_pc_eq rfl⟩
  · simp [State.nextInput, h]
  · simp [h]
  · simp [h]

/-- Settles O34: the history is the only field besides `pc` that `out` sets. -/
theorem outAppendsWholeRegister : Obligations.OutAppendsWholeRegister := fun s a =>
  ⟨_, exec_outPort a s, rfl, fun _ => rfl, rfl, ⟨rfl, rfl⟩, fun _ => ⟨rfl, rfl⟩, ⟨rfl, rfl⟩, ⟨rfl, rfl, rfl, rfl, rfl⟩,
    pcAdvances_of_pc_eq rfl⟩

/-- Settles O35: opcode 11010 of format R. -/
theorem clrClearsRegister : Obligations.ClrClearsRegister := fun a =>
  ⟨fun _ hx => decode_ofNat_formatR 0b11010 rfl rfl hx, formatR_eq_ofNat 0b11010 a,
    fun s => ⟨_, exec_clr a s, onlyRegister_setReg_advance s a _⟩⟩

/-- Settles O36: opcode 11100 of format R; the bottom 10 bits are the value modulo 2^10. -/
theorem lspRegisterSetsStackPointer : Obligations.LspRegisterSetsStackPointer := by
  intro a
  refine ⟨fun _ hx => decode_ofNat_formatR 0b11100 rfl rfl hx, formatR_eq_ofNat 0b11100 a, fun s => ?_⟩
  have hlow : BitVec.ofNat 10 ((s.reg a).toNat % 1024) = low10 (s.reg a) := BitVec.eq_of_toNat_eq (by simp)
  exact ⟨_, exec_lspReg a s, hlow ▸ onlyStackPointer_setSp_advance s _⟩

/-- Settles O37: zero-extension keeps the number. -/
theorem rspZeroExtendsStackPointer : Obligations.RspZeroExtendsStackPointer := by
  intro s a
  have hzext : BitVec.ofNat 16 s.sp.toNat = zext16 s.sp :=
    BitVec.eq_of_toNat_eq (by rw [zext16_toNat, BitVec.toNat_ofNat]; omega)
  exact ⟨_, exec_rsp a s, hzext ▸ onlyRegister_setReg_advance s a _⟩

/-! `mv`, `mvh` and `mvl` (R120, R140, R141). -/

/-- Settles O39: opcode 00001 of format RR. -/
theorem mvCopiesRegister : Obligations.MvCopiesRegister := fun a b =>
  ⟨fun _ hx => decode_ofNat_formatRR 0b00001 rfl rfl hx, formatRR_eq_ofNat 0b00001 a b,
    fun s => ⟨_, exec_mv a b s, onlyRegister_setReg_advance s a _⟩⟩

/-- Settles O45: opcodes 00010 and 00011 of format RI; the values of a word with one byte replaced. -/
theorem mvhAndMvlReplaceOneByte : Obligations.MvhAndMvlReplaceOneByte := by
  intro a imm
  refine ⟨⟨decode_ofNat_formatRI 0b00010 rfl, formatRI_eq_ofNat 0b00010 a imm, fun s => ?mvh⟩,
    decode_ofNat_formatRI 0b00011 rfl, formatRI_eq_ofNat 0b00011 a imm, fun s => ?mvl⟩
  case mvh =>
    have hbyte : BitVec.ofNat 16 (256 * imm.toNat + (s.reg a).toNat % 256) = withHighByte (s.reg a) imm :=
      BitVec.eq_of_toNat_eq (by rw [withHighByte_toNat, BitVec.toNat_ofNat]; omega)
    exact ⟨_, exec_mvh a imm s, hbyte ▸ onlyRegister_setReg_advance s a _⟩
  case mvl =>
    have hbyte : BitVec.ofNat 16 ((s.reg a).toNat / 256 * 256 + imm.toNat) = withLowByte (s.reg a) imm :=
      BitVec.eq_of_toNat_eq (by rw [withLowByte_toNat, BitVec.toNat_ofNat]; omega)
    exact ⟨_, exec_mvl a imm s, hbyte ▸ onlyRegister_setReg_advance s a _⟩

/-! Address operations (R170 to R176). -/

/-- Settles O49: the call completes where the cell is writable, and what it does to the stack is `PushesWord`. -/
theorem callPushesReturnAddress : Obligations.CallPushesReturnAddress := by
  intro s target hw
  have hexec := (exec_call target s).trans (State.storeThen_of_writable hw)
  have hp := pushesWord_of_exec_call hexec
  refine ⟨_, hexec, ?_, addr_sub_one_toNat_mod s.sp, rfl, hp.sameOtherCells, fun _ => rfl, ⟨rfl, rfl⟩, ⟨rfl, rfl, rfl⟩, rfl,
    rfl, rfl, rfl, rfl⟩
  rw [hp.memRead_oldSp, zext16_toNat, addr_add_one_toNat_mod]

/-- Settles O50: a branch is a jump to the target or to the next cell. -/
theorem jumpsSetOnlyPc : Obligations.JumpsSetOnlyPc := by
  intro s target
  rw [ofNat_addr_succ]
  refine ⟨⟨_, exec_jmp target s, onlyPc_jumpTo s target⟩, ⟨_, exec_jc target s, ?_⟩, ⟨_, exec_jnc target s, ?_⟩,
    ⟨_, exec_jz target s, ?_⟩, _, exec_jnz target s, ?_⟩
  all_goals
    rw [State.branch_eq_jumpTo]
    simpa using onlyPc_jumpTo s _

/-- Settles O51: opcode 11011 of format A. -/
theorem lspImmediateSetsStackPointer : Obligations.LspImmediateSetsStackPointer := fun target =>
  ⟨fun _ hx => decode_ofNat_formatA 0b11011 rfl rfl hx, formatA_eq_ofNat 0b11011 target,
    fun s => ⟨_, exec_lspImm target s, onlyStackPointer_setSp_advance s target⟩⟩

/-! Several instructions together. -/

/-- Settles O52: the word that the call pushed lies at `sp + 1`, and its low 10 bits are the return address. -/
theorem retResumesAfterCall : Obligations.RetResumesAfterCall := by
  intro s target t h u hsp hcell
  have hp := pushesWord_of_exec_call h
  have htop : u.sp + 1 = s.sp := by rw [hsp, hp.sp_eq, BitVec.sub_add_cancel]
  have hread : u.memRead (u.sp + 1) = zext16 (s.pc + 1) := by rw [htop, hcell, hp.memRead_oldSp]
  refine ⟨_, exec_ret u, ?_, htop, fun _ => rfl, ⟨rfl, rfl⟩, fun _ => ⟨rfl, rfl⟩⟩
  rw [State.jumpTo_pc, hread, low10_zext16]

/-- Settles O53: the word pushed lies at `sp + 1`, where the pop reads. -/
theorem popUndoesPush : Obligations.PopUndoesPush := by
  intro s a b t h
  have hp := pushesWord_of_exec_push h
  have hregs : SameRegs s t := fun r => registerFrame _ _ _ h r (by simp [destination])
  obtain ⟨hflags, -⟩ := nineInstructionsWriteBothFlags _ _ _ h
  refine ⟨_, exec_pop b t, (t.reg_setReg_self b _).trans hp.memRead_sp_add_one, ?_, fun r hr => ?_, hflags rfl⟩
  · rw [State.advance_sp, State.setSp_sp, hp.sp_eq, BitVec.sub_add_cancel]
  · exact (sameRegsExcept_setReg t b _ r hr).trans (hregs r)

/-- A `push` of a register to a writable cell completes, and changes no register, no flag and not the platform. -/
theorem exec_push_frame {s : State} {a : Reg} (hw : s.writable s.sp = true) :
    ∃ t, exec (.push a) s = .next t ∧ PushesWord (s.reg a) s t ∧ SameRegs s t ∧ SameFlags s t ∧ SamePlatform s t := by
  have hexec := (exec_push a s).trans (State.storeThen_of_writable hw)
  exact ⟨_, hexec, pushesWord_of_exec_push hexec, fun _ => rfl, ⟨rfl, rfl⟩, rfl, rfl, rfl, rfl, rfl⟩

/-- Instructions after others run from the state those leave. -/
theorem execAll_append {is js : List Instr} {s t : State} (h : execAll is s = .next t) :
    execAll (is ++ js) s = execAll js t := by
  induction is generalizing s with
  | nil =>
    cases h
    rfl
  | cons i is ih =>
    cases hi : exec i s with
    | next u =>
      rw [execAll_cons hi] at h
      rw [List.cons_append, execAll_cons hi, ih h]
    | fault r => simp [execAll, hi] at h
    | refused r => simp [execAll, hi] at h

/-- Two offsets below 2^10 from one address reach two cells. -/
theorem sub_ofNat_ne {a : Addr} {j k : Nat} (hj : j < 1024) (hk : k < 1024) (h : j ≠ k) :
    a - BitVec.ofNat 10 j ≠ a - BitVec.ofNat 10 k := by
  intro e
  have := congrArg BitVec.toNat (sub_right_injective e)
  simp at this
  omega

theorem SameFlags.trans {s t u : State} (h : SameFlags s t) (h' : SameFlags t u) : SameFlags s u := by
  obtain ⟨hc, hz⟩ := h
  obtain ⟨hc', hz'⟩ := h'
  exact ⟨hc'.trans hc, hz'.trans hz⟩

/-- The values of the registers `rs` lie at the old `sp` and downwards, the oldest first, and nothing else that a later push
depends on has changed. -/
structure PushedAll (rs : List Reg) (s t : State) : Prop where
  sp_eq : t.sp = s.sp - BitVec.ofNat 10 rs.length
  sameRegs : SameRegs s t
  sameFlags : SameFlags s t
  writable_eq : ∀ a, t.writable a = s.writable a
  memRead_eq : ∀ k (h : k < rs.length), t.memRead (s.sp - BitVec.ofNat 10 k) = s.reg rs[k]

theorem pushedAll_nil (s : State) : PushedAll [] s s where
  sp_eq := by simp
  sameRegs _ := rfl
  sameFlags := ⟨rfl, rfl⟩
  writable_eq _ := rfl
  memRead_eq _ h := absurd h (Nat.not_lt_zero _)

/-- One more push, up to 1024 of them, writes a cell that no earlier one wrote. -/
theorem PushedAll.push {rs : List Reg} {r : Reg} {s t : State} (h : PushedAll rs s t) (hlen : rs.length < 1024)
    (hw : t.writable t.sp = true) : ∃ u, exec (.push r) t = .next u ∧ PushedAll (rs ++ [r]) s u := by
  obtain ⟨u, hexec, hp, hregs, hflags, hplat⟩ := exec_push_frame (a := r) hw
  have hsp := h.sp_eq
  refine ⟨u, hexec, ?_, fun x => (hregs x).trans (h.sameRegs x), h.sameFlags.trans hflags,
    fun a => (writable_eq_of_samePlatform hplat a).trans (h.writable_eq a), fun k hk => ?_⟩
  · rw [hp.sp_eq, hsp, List.length_append, BitVec.ofNat_add, sub_sub]
    rfl
  · rw [List.length_append, List.length_singleton] at hk
    by_cases hlast : k = rs.length
    · subst hlast
      rw [← hsp, hp.memRead_oldSp, h.sameRegs r]
      simp
    · have hk' : k < rs.length := by omega
      have hcell : s.sp - BitVec.ofNat 10 k ≠ t.sp := hsp ▸ sub_ofNat_ne (by omega) hlen hlast
      obtain ⟨hread, -⟩ := hp.sameOtherCells _ hcell
      rw [hread, h.memRead_eq k hk', List.getElem_append_left hk']

/-- Up to 1024 pushes on writable memory complete, by induction on the pushes from the last one back. -/
theorem execAll_push {s : State} (hw : ∀ a, s.writable a = true) (rs : List Reg) (hlen : rs.length ≤ 1024) :
    ∃ t, execAll (rs.map .push) s = .next t ∧ PushedAll rs s t := by
  induction rs using List.reverseRecOn with
  | nil => exact ⟨s, rfl, pushedAll_nil s⟩
  | append_singleton rs r ih =>
    rw [List.length_append, List.length_singleton] at hlen
    obtain ⟨t, hall, ht⟩ := ih (by omega)
    obtain ⟨u, hpush, hu⟩ := ht.push (r := r) (by omega) ((ht.writable_eq t.sp).trans (hw t.sp))
    refine ⟨u, ?_, hu⟩
    rw [List.map_append, execAll_append hall]
    exact execAll_cons hpush

/-- Settles O54: the pushes leave what `PushedAll` says. -/
theorem pushesLieDownwards : Obligations.PushesLieDownwards := by
  intro rs s hlen hw
  obtain ⟨t, hall, ht⟩ := execAll_push hw rs hlen
  exact ⟨t, hall, ht.sp_eq, ht.sameRegs, ht.sameFlags, ht.memRead_eq⟩

/-- Settles O57: the two bytes written are those of the zero-extended address. -/
theorem ldtagLoadsAddress : Obligations.LdtagLoadsAddress := by
  intro s a target
  refine ⟨_, (execAll_cons (exec_mvh a _ s)).trans (execAll_cons (exec_mvl a _ _)), ?value, fun r hr => ?others, rfl,
    ⟨rfl, rfl⟩, fun _ => ⟨rfl, rfl⟩, ⟨rfl, rfl, rfl⟩, ⟨rfl, rfl, rfl, rfl, rfl⟩, ?pc⟩
  case value =>
    have := target.isLt
    rw [State.reg_advance, State.reg_setReg_self, State.reg_advance, State.reg_setReg_self, withLowByte_toNat,
      withHighByte_toNat]
    simp only [BitVec.extractLsb'_toNat, Nat.shiftRight_eq_div_pow, BitVec.toNat_setWidth]
    omega
  case others => exact (sameRegsExcept_setReg _ a _ r hr).trans (sameRegsExcept_setReg s a _ r hr)
  case pc => simp

end Sys2Proof.Machine

/-! PROOFS of the family 'other': reset, boot and the image. -/

namespace Sys2Proof.Machine

/-- Settles O2: nothing is listed in either array. -/
theorem initializationState : Obligations.InitializationState :=
  ⟨rfl, rfl, rfl, fun _ => rfl, fun _ => rfl, fun _ => rfl⟩

/-- Settles O3: the step is the reset (`step_eq_next`), and the reset touches neither memory nor outputs. -/
theorem cpuResetKeepsMemoryAndOutputs : Obligations.CpuResetKeepsMemoryAndOutputs := fun s h =>
  ⟨s.cpuReset, step_eq_next.2 (.inl ⟨h, rfl⟩), rfl, rfl, s.reg_cpuReset, fun _ => ⟨rfl, rfl⟩, rfl, rfl, rfl, rfl, rfl⟩

/-- Settles O4: `step_eq_exec`. -/
theorem stepRunsDecodedInstruction : Obligations.StepRunsDecodedInstruction := fun _ _ => step_eq_exec

/-- Settles O5: the second branch of the fetch. -/
theorem undefinedFetchFaults : Obligations.UndefinedFetchFaults := by
  intro s hr hf
  simp [step, hr, hf]

/-- Settles O8: the jump sets `pc` to the value it has. -/
theorem endedRunStandsStill : Obligations.EndedRunStandsStill := by
  rintro s hr ⟨w, hf, hd⟩
  rw [step_eq_exec hr hf, hd, exec_jmp]
  rfl

/-! An image is placed word by word (R49, R223). -/

@[simp] theorem withImage_cons (s : State) (e : Addr × Word) (image : Image) :
    s.withImage (e :: image) = (s.placeWord e.1 e.2).withImage image := rfl

@[simp] theorem withImage_pc (s : State) (image : Image) : (s.withImage image).pc = s.pc := by
  induction image generalizing s with
  | nil => rfl
  | cons e image ih => simp [ih]

@[simp] theorem withImage_resetRequest (s : State) (image : Image) :
    (s.withImage image).resetRequest = s.resetRequest := by
  induction image generalizing s with
  | nil => rfl
  | cons e image ih => simp [ih]

/-- A cell that the image does not define is fetched as before. -/
theorem fetchWord_withImage_of_notMem {s : State} {image : Image} {a : Addr} (h : a ∉ image.map Prod.fst) :
    (s.withImage image).fetchWord a = s.fetchWord a := by
  induction image generalizing s with
  | nil => rfl
  | cons e image ih =>
    obtain ⟨hne, hrest⟩ := not_or.1 (List.mem_cons.not.1 h)
    rw [withImage_cons, ih hrest, State.fetchWord_placeWord, if_neg hne]

/-- A cell that the image defines once is fetched as the image says. -/
theorem fetchWord_withImage_of_mem {s : State} {image : Image} {a : Addr} {w : Word} (hnd : (image.map Prod.fst).Nodup)
    (h : (a, w) ∈ image) : (s.withImage image).fetchWord a = some w := by
  induction image generalizing s with
  | nil => cases h
  | cons e image ih =>
    obtain ⟨hfresh, hnd'⟩ := List.nodup_cons.1 hnd
    obtain rfl | hrest := List.mem_cons.1 h
    · rw [withImage_cons, fetchWord_withImage_of_notMem hfresh, State.fetchWord_placeWord, if_pos rfl]
    · exact ih hnd' hrest

/-- Settles O6: the image leaves `pc` at 0x000 and requests no reset, so the first step runs its word there. -/
theorem imageIsFetched : Obligations.ImageIsFetched := by
  refine ⟨fun s image a w => fetchWord_withImage_of_mem, fun s image w hs hnd hw => ?_⟩
  have hpc : s.pc = 0x000 := congrArg State.pc hs
  have hr : s.resetRequest = false := congrArg State.resetRequest hs
  apply step_eq_exec
  · rw [withImage_resetRequest, hr]
  · rw [withImage_pc, hpc, fetchWord_withImage_of_mem hnd hw]

end Sys2Proof.Machine

/-! PROOFS of the family 'other': the assembler. -/

namespace Sys2Proof.Asm

open Sys2Proof.Machine

/-! A computation in two parts. -/

@[simp] theorem ok_bind {α β : Type} (a : α) (f : α → Except AsmError β) : (Except.ok a >>= f) = f a := rfl

@[simp] theorem error_bind {α β : Type} (e : AsmError) (f : α → Except AsmError β) :
    (Except.error e >>= f) = .error e := rfl

/-- Both parts complete where the whole does. -/
theorem bind_eq_ok {α β : Type} {x : Except AsmError α} {f : α → Except AsmError β} {r : β} :
    (x >>= f) = .ok r ↔ ∃ a, x = .ok a ∧ f a = .ok r := by
  cases x <;> simp

/-! Operands in the range of their field are accepted, others rejected (R71, R79, R80, D25). -/

theorem regOperand_of_lt {n : Nat} (h : n < 8) : regOperand n = .ok (BitVec.ofNat 3 n) := by
  simp [regOperand, fitsReg, h]

@[simp] theorem regOperand_toNat (r : Reg) : regOperand r.toNat = .ok r := by
  rw [regOperand_of_lt r.isLt, BitVec.ofNat_toNat, BitVec.setWidth_eq]

theorem fitsImm8_iff {n : Int} : fitsImm8 n = true ↔ 0 ≤ n ∧ n ≤ 255 := by simp [fitsImm8]

theorem fitsOff5_iff {n : Int} : fitsOff5 n = true ↔ -16 ≤ n ∧ n ≤ 15 := by simp [fitsOff5]

theorem fitsOff8_iff {n : Int} : fitsOff8 n = true ↔ -128 ≤ n ∧ n ≤ 127 := by simp [fitsOff8]

theorem fitsAddr_iff {n : Int} : fitsAddr n = true ↔ 0 ≤ n ∧ n ≤ 1023 := by simp [fitsAddr]

@[simp] theorem imm8Operand_toNat (imm : Byte) : imm8Operand imm.toNat = .ok imm := by
  rw [imm8Operand, if_pos (fitsImm8_iff.2 (by omega)), BitVec.ofInt_natCast, BitVec.ofNat_toNat, BitVec.setWidth_eq]

@[simp] theorem off5Operand_toInt (off : Off5) : off5Operand off.toInt = .ok off := by
  have hlo : -16 ≤ off.toInt := off.le_toInt
  have hhi : off.toInt < 16 := off.toInt_lt
  rw [off5Operand, if_pos (fitsOff5_iff.2 (by omega)), BitVec.ofInt_toInt]

@[simp] theorem off8Operand_toInt (off : Byte) : off8Operand off.toInt = .ok off := by
  have hlo : -128 ≤ off.toInt := off.le_toInt
  have hhi : off.toInt < 128 := off.toInt_lt
  rw [off8Operand, if_pos (fitsOff8_iff.2 (by omega)), BitVec.ofInt_toInt]

@[simp] theorem addrOperand_addrOp (tags : Tags) (a : Addr) : addrOperand tags (addrOp a) = .ok a := by
  rw [addrOp, addrOperand, if_pos (fitsAddr_iff.2 (by omega)), BitVec.ofInt_natCast, BitVec.ofNat_toNat, BitVec.setWidth_eq]

theorem imm8Operand_out_of_range {n : Int} (h : n < 0 ∨ 255 < n) : imm8Operand n = .error .range := by
  rw [imm8Operand, if_neg (fitsImm8_iff.not.2 (by omega))]

theorem off5Operand_out_of_range {n : Int} (h : n < -16 ∨ 15 < n) : off5Operand n = .error .range := by
  rw [off5Operand, if_neg (fitsOff5_iff.not.2 (by omega))]

theorem off8Operand_out_of_range {n : Int} (h : n < -128 ∨ 127 < n) : off8Operand n = .error .range := by
  rw [off8Operand, if_neg (fitsOff8_iff.not.2 (by omega))]

theorem addrOperand_out_of_range {tags : Tags} {n : Int} (h : n < 0 ∨ 1023 < n) :
    addrOperand tags (.num n) = .error .range := by
  rw [addrOperand, if_neg (fitsAddr_iff.not.2 (by omega))]

/-! Each operand shape reads the spelled operands back (R81 to R83). -/

theorem oneReg_spelled (make : Reg → Instr) (a : Reg) : oneReg make [regOp a] = .ok (make a) := by
  simp [oneReg, regOp]

theorem twoRegs_spelled (make : Reg → Reg → Instr) (a b : Reg) : twoRegs make [regOp a, regOp b] = .ok (make a b) := by
  simp [twoRegs, regOp]

theorem regImm_spelled (make : Reg → Byte → Instr) (a : Reg) (imm : Byte) :
    regImm make [regOp a, .num imm.toNat] = .ok (make a imm) := by
  simp [regImm, regOp]

theorem memory_spelled_reg (viaReg : Reg → Reg → Off5 → Instr) (viaSp : Reg → Byte → Instr) (a b : Reg) (off : Off5) :
    memory viaReg viaSp [regOp a, .atReg b.toNat off.toInt] = .ok (viaReg a b off) := by
  simp [memory, regOp]

theorem memory_spelled_sp (viaReg : Reg → Reg → Off5 → Instr) (viaSp : Reg → Byte → Instr) (a : Reg) (off : Byte) :
    memory viaReg viaSp [regOp a, .atSp off.toInt] = .ok (viaSp a off) := by
  simp [memory, regOp]

theorem oneAddr_spelled (tags : Tags) (make : Addr → Instr) (t : Addr) : oneAddr tags make [addrOp t] = .ok (make t) := by
  simp [oneAddr]

/-- Settles O58: the spelling of each instruction has the operand shape its mnemonic is read with. -/
theorem spellingAssemblesBack : Obligations.SpellingAssemblesBack := by
  intro tags i
  cases i with
  | nop | ret => rfl
  | push | pop | inPort | outPort | clr | lspReg | rsp | not => exact oneReg_spelled _ _
  | mv | add | sub | cmp | and | or | xor | shr | shl => exact twoRegs_spelled _ _ _
  | mvh | mvl => exact regImm_spelled _ _ _
  | ldReg => exact memory_spelled_reg .ldReg .ldStack _ _ _
  | stReg => exact memory_spelled_reg .stReg .stStack _ _ _
  | ldStack => exact memory_spelled_sp .ldReg .ldStack _ _
  | stStack => exact memory_spelled_sp .stReg .stStack _ _
  | call | jmp | jc | jnc | jz | jnz | lspImm => exact oneAddr_spelled tags _ _

/-- Settles O60: the operand out of range is the first that is rejected. -/
theorem outOfRangeOperandsRejected : Obligations.OutOfRangeOperandsRejected := by
  intro tags a b n ha hb
  refine ⟨fun h => ?imm8, fun h => ?off5, fun h => ?off8, fun h m hm => ?addr⟩
  case imm8 => simp [assembleInstr, regImm, regOperand_of_lt ha, imm8Operand_out_of_range h]
  case off5 => simp [assembleInstr, memory, regOperand_of_lt ha, regOperand_of_lt hb, off5Operand_out_of_range h]
  case off8 => simp [assembleInstr, memory, regOperand_of_lt ha, off8Operand_out_of_range h]
  case addr =>
    have hone : ∀ make, oneAddr tags make [.num n] = .error .range := by
      simp [oneAddr, addrOperand_out_of_range h]
    simp only [List.mem_cons, List.not_mem_nil, or_false] at hm
    obtain rfl | rfl | rfl | rfl | rfl | rfl | rfl := hm <;> exact hone _

/-! The addresses of an image (R190). -/

/-- An item of `n` cells moves the location counter past them, if they fit. -/
theorem room_eq_ok {loc n loc' : Nat} :
    (if loc + n ≤ 1024 then Except.ok (loc + n) else .error AsmError.overflow) = .ok loc' ↔
      loc + n ≤ 1024 ∧ loc + n = loc' := by
  by_cases h : loc + n ≤ 1024 <;> simp [h]

/-- The words of an item end at or before the new location counter, which is at most 1024. -/
theorem nextLoc_bounds {pack : StringPacking} {tags : Tags} {loc loc' : Nat} {item : Item} {words : List Word}
    (hnext : nextLoc pack loc item = .ok loc') (hwords : wordsOf pack tags item = .ok words) :
    loc + words.length ≤ loc' ∧ loc' ≤ 1024 := by
  cases item with
  | instr m ops =>
    obtain ⟨i, -, hi⟩ := bind_eq_ok.1 hwords
    cases hi
    obtain ⟨hle, rfl⟩ := room_eq_ok.1 hnext
    exact ⟨le_rfl, hle⟩
  | ldtag r t =>
    obtain ⟨a, -, ha⟩ := bind_eq_ok.1 hwords
    obtain ⟨target, -, ht⟩ := bind_eq_ok.1 ha
    cases ht
    obtain ⟨hle, rfl⟩ := room_eq_ok.1 hnext
    exact ⟨le_rfl, hle⟩
  | string t chars =>
    cases hwords
    obtain ⟨hle, rfl⟩ := room_eq_ok.1 hnext
    exact ⟨le_rfl, hle⟩
  | resv t n =>
    cases hwords
    by_cases hn : n < 0
    · simp [nextLoc, hn] at hnext
    · simp only [nextLoc, hn, if_false] at hnext
      obtain ⟨hle, rfl⟩ := room_eq_ok.1 hnext
      exact ⟨Nat.le_add_right _ _, hle⟩
  | org addr =>
    cases hwords
    cases hfits : fitsAddr addr
    · simp [nextLoc, hfits] at hnext
    · by_cases hback : addr.toNat < loc
      · simp [nextLoc, hfits, hback] at hnext
      · have hloc : addr.toNat = loc' := by simpa [nextLoc, hfits, hback] using hnext
        have hmax := fitsAddr_iff.1 hfits
        rw [List.length_nil]
        omega

theorem toNat_ofNat_of_lt {loc : Nat} (h : loc < 1024) : (BitVec.ofNat 10 loc).toNat = loc := by
  rw [BitVec.toNat_ofNat, Nat.mod_eq_of_lt h]

/-- Placed words have the addresses from the location counter on. -/
theorem placeFrom_bounds {loc : Nat} {words : List Word} (hfit : loc + words.length ≤ 1024) :
    ∀ p ∈ placeFrom loc words, loc ≤ p.1.toNat ∧ p.1.toNat < loc + words.length := by
  induction words generalizing loc with
  | nil => simp [placeFrom]
  | cons w ws ih =>
    rw [List.length_cons] at hfit
    intro p hp
    rw [List.length_cons]
    obtain rfl | hp := List.mem_cons.1 hp
    · have hhead := toNat_ofNat_of_lt (loc := loc) (by omega)
      exact ⟨hhead.ge, hhead.trans_lt (by omega)⟩
    · have := ih (by omega) p hp
      omega

/-- An image whose addresses rise strictly. -/
def Rises (image : Image) : Prop := image.Pairwise (fun p q => p.1.toNat < q.1.toNat)

theorem rises_placeFrom {loc : Nat} {words : List Word} (hfit : loc + words.length ≤ 1024) :
    Rises (placeFrom loc words) := by
  induction words generalizing loc with
  | nil => exact .nil
  | cons w ws ih =>
    rw [List.length_cons] at hfit
    refine List.pairwise_cons.2 ⟨fun q hq => ?_, ih (by omega)⟩
    obtain ⟨hlow, -⟩ := placeFrom_bounds (by omega) q hq
    exact (toNat_ofNat_of_lt (by omega)).trans_lt hlow

/-- The second pass places every word at or above the location counter, at rising addresses: the words of one item end before
those of the next begin. -/
theorem emit_rises {pack : StringPacking} {tags : Tags} {loc : Nat} {lines : List Line} {image : Image}
    (h : emit pack tags loc lines = .ok image) : Rises image ∧ ∀ p ∈ image, loc ≤ p.1.toNat := by
  induction lines generalizing loc image with
  | nil =>
    cases h
    exact ⟨.nil, by simp⟩
  | cons l ls ih =>
    obtain ⟨words, hwords, h⟩ := bind_eq_ok.1 h
    obtain ⟨loc', hnext, h⟩ := bind_eq_ok.1 h
    obtain ⟨rest, hrest, h⟩ := bind_eq_ok.1 h
    cases h
    obtain ⟨hend, hmax⟩ := nextLoc_bounds hnext hwords
    obtain ⟨hrises, hlow⟩ := ih hrest
    have hfit : loc + words.length ≤ 1024 := hend.trans hmax
    constructor
    · refine List.pairwise_append.2 ⟨rises_placeFrom hfit, hrises, fun p hp q hq => ?_⟩
      have := placeFrom_bounds hfit p hp
      have := hlow q hq
      omega
    · intro p hp
      obtain hp | hp := List.mem_append.1 hp
      · obtain ⟨hloc, -⟩ := placeFrom_bounds hfit p hp
        exact hloc
      · have := hlow p hp
        omega

/-- Settles O59: the image is what the second pass emits. -/
theorem assembledAddressesRise : Obligations.AssembledAddressesRise := by
  intro pack lines image h
  obtain ⟨tags, -, hemit⟩ := bind_eq_ok.1 h
  obtain ⟨hrises, -⟩ := emit_rises hemit
  exact hrises

end Sys2Proof.Asm
